-- ==== Sys2Proof/Word.lean ====
section
/-! DEFINITION. The widths of the block (00_scope R7, R9): bytes and addresses of 8 bits, bus words of
9 bits, message values of 32 bits, check codes of 16 bits. All values are unsigned. -/

namespace Sys2Proof

/-- A data byte, a length byte or a bus address (00_scope R7, `ADDR_WIDTH`). -/
abbrev Byte := BitVec 8

/-- A 9-bit bus word: 8 data bits plus 1 marker bit (00_scope R7, `WORD_WIDTH`; 30_encoding R80). -/
abbrev Symbol := BitVec 9

/-- The 16-bit check code (00_scope R7, `CHECK_WIDTH`). -/
abbrev CheckCode := BitVec 16

/-- The 32-bit value of an UpdateRequest or a SolenoidUpdate (30_encoding R87, R88). -/
abbrev Value := BitVec 32

end Sys2Proof
end

