-- ==== Sys2Proof/Config.lean ====
section
/-! DEFINITION. The constants of the block (00_scope R7), the configuration it is built with
(00_scope R8, 10_state R41), and the values the spec leaves open (opaque, so that nothing can be proved of
them beyond their type), with the types of 00_scope R13 that they need. -/

namespace Sys2Proof

/-- `MAX_DATA_LEN` of 00_scope R7: the largest payload in bytes. -/
abbrev maxDataLen : Nat := 62

/-- `BUF_SIZE` of 00_scope R7: the size of the Receiver buffer in bytes. -/
abbrev bufSize : Nat := 62

/-- `MAX_MESSAGE_LEN` of 00_scope R7: the largest frame in words, without the check code. -/
abbrev maxMessageLen : Nat := 64

/-- The role a device is configured for (10_state R41 "in master role", 70_reset R242). -/
inductive Role where
  | master
  | slave
  deriving DecidableEq, Repr

/-- The option `DECODE_TRIGGER` (00_scope R4, R8). -/
inductive DecodeTrigger where
  | edge
  | level
  deriving DecidableEq, Repr

/-- The option `EXCESS_POLICY` (00_scope R4, R8). -/
inductive ExcessPolicy where
  | ignore
  | reject
  deriving DecidableEq, Repr

/-- The configuration `cfg` of 00_scope R8, with the role of 10_state R41. `CHECK_FN` is a function and
State is plain data, so the configuration holds `checkSel`, which names the function (log entry 10). -/
structure Cfg where
  role          : Role
  localAddr     : Byte
  masterAddress : Byte
  lenLimit      : BitVec 6
  integrity     : Bool
  checkSel      : Nat
  decodeTrigger : DecodeTrigger
  excessPolicy  : ExcessPolicy
  loopback      : Bool
  deriving DecidableEq, Repr

/-- The configuration at power-on: the defaults of 00_scope R8; where R8 gives none (`LOCAL_ADDR`,
`CHECK_FN`, the role) the values of log entry 6, after 95_test_vectors' "default configuration".
DESIGN CHOICE, unsafe. -/
def Cfg.default : Cfg where
  role          := .slave
  localAddr     := 0x02
  masterAddress := 0x01
  lenLimit      := 62
  integrity     := false
  checkSel      := 0
  decodeTrigger := .edge
  excessPolicy  := .ignore
  loopback      := false

/-- `CHECK_FN` of 00_scope R8, OPEN: the check function that a configuration's `checkSel` names, applied
to an address, a length and a payload. FREE VALUE (log entry 10): a claim holds whatever it is. -/
opaque Config.checkFn : (checkSel : Nat) → (addr len : Byte) → (payload : List Byte) → CheckCode

/-- The closed set of messages (00_scope R13, 30_encoding R85). -/
inductive Message where
  | broadcast (bytes : Vector Byte 10)
  | discoveryRequest
  | discoveryAck
  | updateRequest (v : Value)
  | solenoidUpdate (v : Value)
  deriving DecidableEq, Repr, Inhabited

/-- The causes of a decode failure (00_scope R13, 92 D17). -/
inductive DecodeError where
  | unrecognized
  | short
  | excess
  deriving DecidableEq, Repr, Inhabited

/-- The result of MSG_DECODE: `Ok(Message) | Err(DecodeError)` (43_message_codec R160). -/
inductive DecodeResult where
  | ok  (m : Message)
  | err (e : DecodeError)
  deriving DecidableEq, Repr, Inhabited

/-- What the message decoder makes of a payload of more than 62 bytes whose kind it recognizes: 43_message_codec
R160 and R178 state the result for 0 to 62 bytes only. FREE VALUE (log entry 23), DESIGN CHOICE: a claim holds
whatever it is. -/
opaque Config.longDecode : (policy : ExcessPolicy) → (payload : List Byte) → DecodeResult

/-- The order of requests presented at once, which the block does not fix (60_exceptions R215): which of
them the `draw`-th choice takes first. FREE VALUE (log entry 3). -/
opaque Config.pick : (draw : Nat) → Nat

end Sys2Proof
end

