-- ==== Sys2Proof/Syntax.lean ====
section
/-! DEFINITION. The types of the rules (00_scope R13), the operations of the block (one constructor of
`Instr` per row of spec/opcode_table.json), and the requests by which the host presents them. -/

namespace Sys2Proof

/-- The Receiver's state (00_scope R13, 10_state R31). -/
inductive RxState where
  | idle
  | receiving
  | completed
  | error
  deriving DecidableEq, Repr

/-- The decoded form of a 9-bit word (00_scope R13). -/
inductive Word where
  | addr (a : Byte)
  | data (b : Byte)
  deriving DecidableEq, Repr

/-- The kinds of message (30_encoding R85). -/
inductive Kind where
  | broadcast
  | discoveryRequest
  | discoveryAck
  | updateRequest
  | solenoidUpdate
  deriving DecidableEq, Repr

/-- The send-time errors (00_scope R13). -/
inductive TxError where
  | frameTooLong
  | sendToSelf
  deriving DecidableEq, Repr

/-- The result of CHECK_LEN (43_message_codec R166). -/
inductive LenResult where
  | ok
  | err (e : DecodeError)
  deriving DecidableEq, Repr

/-- The result of TX_FRAME: a word list or an error (44_transport R190). -/
inductive TxResult where
  | words (ws : List Symbol)
  | error (e : TxError)
  deriving DecidableEq, Repr

/-- The operations: one constructor per row of spec/opcode_table.json, in the table's order. -/
inductive Instr where
  -- WORD9: a received word (30_encoding R90)
  | start (a : Byte)
  | foreignAddr (a : Byte)
  | data (d : Byte)
  -- RXBYTE: a byte given to the Receiver (41_receiver R121)
  | rxLenReject (b : Byte)
  | rxLenOk (b : Byte)
  | rxLenZero
  | rxPayload (b : Byte)
  | rxDrop (b : Byte)
  | rxCheck (b : Byte)
  -- DISC8: a payload, `rest` being what follows its discriminant byte (43_message_codec R160)
  | decBroadcast (rest : List Byte)
  | decDiscoveryRequest (rest : List Byte)
  | decDiscoveryAck (rest : List Byte)
  | decUpdateRequest (rest : List Byte)
  | decSolenoidUpdate (rest : List Byte)
  | decUnrecognized05 (rest : List Byte)
  | decUnrecognized06 (x : BitVec 1) (rest : List Byte)
  | decUnrecognized08 (x : BitVec 3) (rest : List Byte)
  | decUnrecognized10 (x : BitVec 4) (rest : List Byte)
  | decUnrecognized20 (x : BitVec 5) (rest : List Byte)
  | decUnrecognized40 (x : BitVec 6) (rest : List Byte)
  | decUnrecognized80 (x : BitVec 7) (rest : List Byte)
  | decEmpty
  -- MSGENC: a message to encode (43_message_codec R169)
  | encBroadcast (bytes : Vector Byte 10)
  | encDiscoveryRequest
  | encDiscoveryAck
  | encUpdateRequest (v : Value)
  | encSolenoidUpdate (v : Value)
  -- PORT: the host-port operations (30_encoding R95)
  | ingest (w : Symbol)
  | poll
  | reset (c : Cfg)
  | txFrame (a : Byte) (p : List Byte)
  | txMessage (a : Byte) (m : Message)
  | msgEncode (m : Message)
  -- FUNC: the functions of the rules
  | wordDecode (w : Symbol)
  | wordEncodeAddr (a : Byte)
  | wordEncodeData (b : Byte)
  | addToBuffer (b : Byte)
  | dataRead
  | completionTrigger (before : RxState)
  | decodeStore
  | msgDecode (p : List Byte)
  | checkLen (p : List Byte) (n : Nat)
  | solenoid (inputs : BitVec 12) (outputs : BitVec 7) (reserved : BitVec 13)
  deriving DecidableEq, Repr

/-- What the host presents to the block, before it is decoded. The formats of spec/opcode_table.json
that have bits carry them raw: a bus word for WORD9, a byte for RXBYTE, a payload for DISC8, an encoded
message for MSGENC. The PORT and FUNC rows have no bit encoding (30_encoding R95): they are a strobe or a
call with its arguments, as wide as the caller makes them. The last two are no operation of the block:
the spec says a model refuses them (93 I5, I20). -/
inductive Request where
  | word9 (w : Nat)
  | rxByte (b : Byte)
  | disc8 (p : List Byte)
  | msgEnc (e : List Byte)
  | ingest (w : Nat)
  | poll
  | reset (c : Cfg)
  | txFrame (a : Byte) (p : List Byte)
  | txMessage (a : Byte) (m : Message)
  | msgEncode (m : Message)
  | wordDecode (w : Nat)
  | wordEncodeAddr (a : Byte)
  | wordEncodeData (b : Byte)
  | addToBuffer (b : Byte)
  | dataRead
  | completionTrigger (before : RxState)
  | decodeStore
  | msgDecode (p : List Byte)
  | checkLen (p : List Byte) (n : Nat)
  | solenoid (inputs outputs reserved : Nat)
  | statusWrite (v : BitVec 3)
  | configChange (c : Cfg)
  deriving DecidableEq, Repr

/-- Why a request is no instruction. Each is raised by the decoder and is safe: the model stops where
the spec gives no operation. -/
inductive BadRequest where
  /-- a word wider than the 9-bit port (40_word_codec R114, 93 I24) -/
  | wordTooWide
  /-- bytes that are the encoding of no message (43_message_codec R170 to R174) -/
  | notAMessage
  /-- a byte in a control position that no case rule covers and no run reaches (41_receiver R121) -/
  | noReceiverCase
  /-- a RESET with `LEN_LIMIT` above 62, not among 10_state R41's legal values (DESIGN CHOICE, safe: log entry 20) -/
  | lenLimitTooLarge
  /-- a RESET in master role with `LOCAL_ADDR` other than `MASTER_ADDRESS` (70_reset R242, 93 I21) -/
  | bootAddress
  /-- a SOLENOID argument wider than its field (43_message_codec R176, 93 I17) -/
  | solenoidFieldTooWide
  /-- a write to the status port (10_state R42, 93 I5) -/
  | statusPortReadOnly
  /-- a change of the configuration outside RESET (70_reset R243, 93 I20) -/
  | configChangeOutsideReset
  deriving DecidableEq, Repr

/-- The control position and the configuration, which select the row a word or a byte belongs to
(10_state R39, 41_receiver R121, 42_parser R141). -/
structure Ctx where
  cfg      : Cfg
  rxState  : RxState
  lenValid : Bool
  declLen  : Byte
  count    : Fin 63
  deriving DecidableEq, Repr

end Sys2Proof
end

