-- ==== Sys2Proof/WellFormed.lean ====
section
/-! DEFINITION. Well-formed instructions: operands within the ranges the spec gives them, and the row's
selection condition, as spec/opcode_table.json writes it beside the row, met in the context. -/

namespace Sys2Proof

/-- The configurations a device may be reset with: `LEN_LIMIT` in 0..62 and, in master role, `LOCAL_ADDR`
exactly `MASTER_ADDRESS` (10_state R41). Any address is legal in slave role: DESIGN CHOICE, safe (log entry 28). -/
def Cfg.wf (c : Cfg) : Bool :=
  decide (c.lenLimit.toNat ≤ maxDataLen) &&
    match c.role with
    | .master => c.localAddr == c.masterAddress
    | .slave  => true

/-- The control position of the length phase (00_scope §6). -/
def Ctx.lengthPhase (x : Ctx) : Bool := x.rxState == .receiving && !x.lenValid

/-- The control position of the payload phase (00_scope §6). -/
def Ctx.payloadPhase (x : Ctx) : Bool :=
  x.rxState == .receiving && x.lenValid && decide (x.count.val < x.declLen.toNat)

/-- The control position of the check phase (00_scope §6). -/
def Ctx.checkPhase (x : Ctx) : Bool :=
  x.rxState == .receiving && x.lenValid && x.count.val == x.declLen.toNat && x.cfg.integrity

/-- `i` is well formed in the context `x`. -/
def Instr.wf (x : Ctx) : Instr → Bool
  | .start a               => a == x.cfg.localAddr
  | .foreignAddr a         => a != x.cfg.localAddr
  | .data _                => true
  | .rxLenReject b         => x.lengthPhase && decide (x.cfg.lenLimit.toNat < b.toNat)
  | .rxLenOk b             => x.lengthPhase && b != 0 && decide (b.toNat ≤ x.cfg.lenLimit.toNat)
  | .rxLenZero             => x.lengthPhase
  | .rxPayload _           => x.payloadPhase
  | .rxDrop _              => x.rxState != .receiving
  | .rxCheck _             => x.checkPhase
  | .decBroadcast _        => true
  | .decDiscoveryRequest _ => true
  | .decDiscoveryAck _     => true
  | .decUpdateRequest _    => true
  | .decSolenoidUpdate _   => true
  | .decUnrecognized05 _   => true
  | .decUnrecognized06 _ _ => true
  | .decUnrecognized08 _ _ => true
  | .decUnrecognized10 _ _ => true
  | .decUnrecognized20 _ _ => true
  | .decUnrecognized40 _ _ => true
  | .decUnrecognized80 _ _ => true
  | .decEmpty              => true
  | .encBroadcast _        => true
  | .encDiscoveryRequest   => true
  | .encDiscoveryAck       => true
  | .encUpdateRequest _    => true
  | .encSolenoidUpdate _   => true
  | .ingest _              => true
  | .poll                  => true
  | .reset c               => c.wf
  | .txFrame _ _           => true
  | .txMessage _ _         => true
  | .msgEncode _           => true
  | .wordDecode _          => true
  | .wordEncodeAddr _      => true
  | .wordEncodeData _      => true
  | .addToBuffer _         => true
  | .dataRead              => true
  | .completionTrigger _   => true
  | .decodeStore           => true
  | .msgDecode _           => true
  | .checkLen _ _          => true
  | .solenoid _ _ _        => true

end Sys2Proof
end

