-- ==== Sys2Proof/Decode.lean ====
section
/-! DEFINITION. The decoders of the three nested encodings (30_encoding R90), total on any request and
rejecting by name; the bit-field and byte-order helpers they use; and the encoder, written from the same
formats. -/

namespace Sys2Proof

/-! ### Byte order (00_scope R10, 20_memory R62) -/

/-- `LE16(lo, hi)` of 00_scope R10. -/
def le16 (lo hi : Byte) : CheckCode :=
  lo.setWidth 16 ||| (hi.setWidth 16 <<< 8)

/-- `LE32(b0, b1, b2, b3)` of 00_scope R10. -/
def le32 (b0 b1 b2 b3 : Byte) : Value :=
  b0.setWidth 32 ||| (b1.setWidth 32 <<< 8) ||| (b2.setWidth 32 <<< 16) ||| (b3.setWidth 32 <<< 24)

/-- The four bytes of a 32-bit value as they travel: `[v[7:0], v[15:8], v[23:16], v[31:24]]`
(43_message_codec R173). -/
def bytesLe32 (v : Value) : List Byte :=
  [v.extractLsb' 0 8, v.extractLsb' 8 8, v.extractLsb' 16 8, v.extractLsb' 24 8]

/-- The two bytes of a check code as they travel: `[c[7:0], c[15:8]]` (44_transport R194). -/
def bytesLe16 (c : CheckCode) : List Byte :=
  [c.extractLsb' 0 8, c.extractLsb' 8 8]

/-! ### The word format (30_encoding R80, R81) -/

/-- WORD_DECODE: `if w[8] = 1 then Addr(w[7:0]) else Data(w[7:0])` (40_word_codec R110). -/
def wordDecode (w : Symbol) : Word :=
  if w.getLsbD 8 then .addr (w.extractLsb' 0 8) else .data (w.extractLsb' 0 8)

/-- WORD_ENCODE_ADDR: `(1 << 8) | zext_9(a)` (40_word_codec R111). -/
def wordEncodeAddr (a : Byte) : Symbol := 0x100#9 ||| a.setWidth 9

/-- WORD_ENCODE_DATA: `zext_9(b)` (40_word_codec R112). -/
def wordEncodeData (b : Byte) : Symbol := b.setWidth 9

/-! ### The first and second level: bus words (30_encoding R90) -/

/-- The row of a 9-bit word: bit 8 tells an address word from a data word, and an address word equal to
`LOCAL_ADDR` is START (30_encoding R90, 42_parser R141). -/
def decodeWord9 (localAddr : Byte) (w : Symbol) : Instr :=
  match wordDecode w with
  | .addr a => if a = localAddr then .start a else .foreignAddr a
  | .data b => .data b

/-! ### The Receiver's cases (41_receiver R121) -/

/-- The case rules of ADD_TO_BUFFER. -/
inductive RxCase where
  | lenReject
  | lenOk
  | lenZero
  | payload
  | drop
  | check
  deriving DecidableEq, Repr

/-- The dispatch of 41_receiver R121. `none`: a control position R121 says no run reaches (Receiving with
every declared byte stored, and no check phase to follow). -/
def rxSelect (x : Ctx) (b : Byte) : Option RxCase :=
  match x.rxState with
  | .idle      => some .drop
  | .completed => some .drop
  | .error     => some .drop
  | .receiving =>
    if x.lenValid then
      if x.count.val < x.declLen.toNat then some .payload
      else if x.cfg.integrity && x.count.val == x.declLen.toNat then some .check
      else none
    else if x.cfg.lenLimit.toNat < b.toNat then some .lenReject
    else if b = 0 then some .lenZero
    else some .lenOk

/-- The row of a case. -/
def RxCase.instr (b : Byte) : RxCase → Instr
  | .lenReject => .rxLenReject b
  | .lenOk     => .rxLenOk b
  | .lenZero   => .rxLenZero
  | .payload   => .rxPayload b
  | .drop      => .rxDrop b
  | .check     => .rxCheck b

/-! ### The third level: payloads by their discriminant (30_encoding R85, R91) -/

/-- The row of a payload `d :: rest`, by the match and mask of spec/opcode_table.json. -/
def decodeDisc (d : Byte) (rest : List Byte) : Instr :=
  if d = 0x00 then .decBroadcast rest
  else if d = 0x01 then .decDiscoveryRequest rest
  else if d = 0x02 then .decDiscoveryAck rest
  else if d = 0x03 then .decUpdateRequest rest
  else if d = 0x04 then .decSolenoidUpdate rest
  else if d = 0x05 then .decUnrecognized05 rest
  else if d &&& 0xFE = 0x06 then .decUnrecognized06 (d.extractLsb' 0 1) rest
  else if d &&& 0xF8 = 0x08 then .decUnrecognized08 (d.extractLsb' 0 3) rest
  else if d &&& 0xF0 = 0x10 then .decUnrecognized10 (d.extractLsb' 0 4) rest
  else if d &&& 0xE0 = 0x20 then .decUnrecognized20 (d.extractLsb' 0 5) rest
  else if d &&& 0xC0 = 0x40 then .decUnrecognized40 (d.extractLsb' 0 6) rest
  else .decUnrecognized80 (d.extractLsb' 0 7) rest

/-- The row of a payload; an empty one has no discriminant (43_message_codec R168). -/
def decodePayload : List Byte → Instr
  | []        => .decEmpty
  | d :: rest => decodeDisc d rest

/-! ### Encoded messages (43_message_codec R170 to R174) -/

/-- The row of the message whose encoding is `e`: the discriminant byte, then exactly the kind's layout. -/
def decodeEnc : List Byte → Option Instr
  | [d] =>
    if d = 0x01 then some .encDiscoveryRequest
    else if d = 0x02 then some .encDiscoveryAck
    else none
  | [d, b0, b1, b2, b3] =>
    if d = 0x03 then some (.encUpdateRequest (le32 b0 b1 b2 b3))
    else if d = 0x04 then some (.encSolenoidUpdate (le32 b0 b1 b2 b3))
    else none
  | [d, b0, b1, b2, b3, b4, b5, b6, b7, b8, b9] =>
    if d = 0x00 then some (.encBroadcast #v[b0, b1, b2, b3, b4, b5, b6, b7, b8, b9])
    else none
  | _ => none

/-! ### Requests -/

/-- What the decoder answers: an instruction, or why there is none. -/
inductive Decoded where
  | ok  (i : Instr)
  | bad (why : BadRequest)
  deriving DecidableEq, Repr

/-- A word reaches the block only through the 9-bit port (40_word_codec R114, 93 I24). -/
def onPort9 (w : Nat) (k : Symbol → Instr) : Decoded :=
  if w < 512 then .ok (k (BitVec.ofNat 9 w)) else .bad .wordTooWide

/-- What a model refuses of the configuration RESET samples: `LEN_LIMIT` 63, which 10_state R41 does not list as
legal (that it is refused is a DESIGN CHOICE, safe: log entry 20), and a master whose `LOCAL_ADDR` is not
`MASTER_ADDRESS` (93 I21). 70_reset R242 asks a slave to use another address than `MASTER_ADDRESS`; R41 lists every
address as legal and 93 orders no refusal, so RESET runs there: DESIGN CHOICE, safe (log entry 28). -/
def checkCfg (c : Cfg) : Option BadRequest :=
  if maxDataLen < c.lenLimit.toNat then some .lenLimitTooLarge
  else if c.role = .master ∧ c.localAddr ≠ c.masterAddress then some .bootAddress
  else none

/-- The decoder: the instruction a request is, in the context `x`, or the name of its fault. -/
def decode (x : Ctx) : Request → Decoded
  | .word9 w             => onPort9 w (decodeWord9 x.cfg.localAddr)
  | .rxByte b            => match rxSelect x b with
                            | some c => .ok (c.instr b)
                            | none   => .bad .noReceiverCase
  | .disc8 p             => .ok (decodePayload p)
  | .msgEnc e            => match decodeEnc e with
                            | some i => .ok i
                            | none   => .bad .notAMessage
  | .ingest w            => onPort9 w .ingest
  | .poll                => .ok .poll
  | .reset c             => match checkCfg c with
                            | none   => .ok (.reset c)
                            | some e => .bad e
  | .txFrame a p         => .ok (.txFrame a p)
  | .txMessage a m       => .ok (.txMessage a m)
  | .msgEncode m         => .ok (.msgEncode m)
  | .wordDecode w        => onPort9 w .wordDecode
  | .wordEncodeAddr a    => .ok (.wordEncodeAddr a)
  | .wordEncodeData b    => .ok (.wordEncodeData b)
  | .addToBuffer b       => .ok (.addToBuffer b)
  | .dataRead            => .ok .dataRead
  | .completionTrigger r => .ok (.completionTrigger r)
  | .decodeStore         => .ok .decodeStore
  | .msgDecode p         => .ok (.msgDecode p)
  | .checkLen p n        => .ok (.checkLen p n)
  | .solenoid i o r      =>
    if i < 2 ^ 12 ∧ o < 2 ^ 7 ∧ r < 2 ^ 13 then
      .ok (.solenoid (BitVec.ofNat 12 i) (BitVec.ofNat 7 o) (BitVec.ofNat 13 r))
    else .bad .solenoidFieldTooWide
  | .statusWrite _       => .bad .statusPortReadOnly
  | .configChange _      => .bad .configChangeOutsideReset

/-! ### The encoder -/

/-- The request that presents an instruction: its bits in the format of its row (30_encoding R80 to R88,
43_message_codec R170 to R174), or its strobe or call (30_encoding R95). -/
def encode : Instr → Request
  | .start a               => .word9 (wordEncodeAddr a).toNat
  | .foreignAddr a         => .word9 (wordEncodeAddr a).toNat
  | .data d                => .word9 (wordEncodeData d).toNat
  | .rxLenReject b         => .rxByte b
  | .rxLenOk b             => .rxByte b
  | .rxLenZero             => .rxByte 0x00
  | .rxPayload b           => .rxByte b
  | .rxDrop b              => .rxByte b
  | .rxCheck b             => .rxByte b
  | .decBroadcast p        => .disc8 (0x00 :: p)
  | .decDiscoveryRequest p => .disc8 (0x01 :: p)
  | .decDiscoveryAck p     => .disc8 (0x02 :: p)
  | .decUpdateRequest p    => .disc8 (0x03 :: p)
  | .decSolenoidUpdate p   => .disc8 (0x04 :: p)
  | .decUnrecognized05 p   => .disc8 (0x05 :: p)
  | .decUnrecognized06 x p => .disc8 ((0b0000011#7 ++ x) :: p)
  | .decUnrecognized08 x p => .disc8 ((0b00001#5 ++ x) :: p)
  | .decUnrecognized10 x p => .disc8 ((0b0001#4 ++ x) :: p)
  | .decUnrecognized20 x p => .disc8 ((0b001#3 ++ x) :: p)
  | .decUnrecognized40 x p => .disc8 ((0b01#2 ++ x) :: p)
  | .decUnrecognized80 x p => .disc8 ((0b1#1 ++ x) :: p)
  | .decEmpty              => .disc8 []
  | .encBroadcast b        => .msgEnc (0x00 :: b.toList)
  | .encDiscoveryRequest   => .msgEnc [0x01]
  | .encDiscoveryAck       => .msgEnc [0x02]
  | .encUpdateRequest v    => .msgEnc (0x03 :: bytesLe32 v)
  | .encSolenoidUpdate v   => .msgEnc (0x04 :: bytesLe32 v)
  | .ingest w              => .ingest w.toNat
  | .poll                  => .poll
  | .reset c               => .reset c
  | .txFrame a p           => .txFrame a p
  | .txMessage a m         => .txMessage a m
  | .msgEncode m           => .msgEncode m
  | .wordDecode w          => .wordDecode w.toNat
  | .wordEncodeAddr a      => .wordEncodeAddr a
  | .wordEncodeData b      => .wordEncodeData b
  | .addToBuffer b         => .addToBuffer b
  | .dataRead              => .dataRead
  | .completionTrigger r   => .completionTrigger r
  | .decodeStore           => .decodeStore
  | .msgDecode p           => .msgDecode p
  | .checkLen p n          => .checkLen p n
  | .solenoid i o r        => .solenoid i.toNat o.toNat r.toNat

/-! ### The words of the opcode table -/

/-- How many operand bytes follow the discriminant `d` in its kind's layout (30_encoding R85). -/
def operandBytes (d : Byte) : Nat :=
  if d = 0x00 then 10 else if d = 0x03 ∨ d = 0x04 then 4 else 0

/-- The request that presents a word of spec/opcode_table.json, numbered as the table numbers it. A row
of one byte is read as DISC8, the payload whose first byte it is with operand bytes of zero: RXBYTE and
MSGENC share the same 8 bits and are told apart by where a byte arises, never by its bits (log entry 15).
A wider row is a WORD9 word. -/
def tableRequest (nbits w : Nat) : Request :=
  if nbits ≤ 8 then
    .disc8 (BitVec.ofNat 8 w :: List.replicate (operandBytes (BitVec.ofNat 8 w)) 0x00)
  else .word9 w

/-- The context right after reset with the power-on configuration (10_state R46). -/
def Ctx.atReset : Ctx where
  cfg      := .default
  rxState  := .idle
  lenValid := false
  declLen  := 0
  count    := 0

/-- The instruction the decoder reads from a word of spec/opcode_table.json, in the context right after
reset. -/
def decodeTableWord (nbits w : Nat) : Option Instr :=
  match decode .atReset (tableRequest nbits w) with
  | .ok i  => some i
  | .bad _ => none

end Sys2Proof
end

