-- ==== Sys2Proof/Machine/State.lean ====
section
/-! DEFINITION. The state of the block: the tuple of 10_state R30, the configuration it was reset with,
what the last step returned (00_scope R12), and the requests the host presents. -/

namespace Sys2Proof.Machine

/-- The bytes of the Receiver buffer that differ from `blankByte`, by index: indices strictly rising and
below 62 (10_state R35). `Memory.wf` states the form. -/
abbrev Mem := List Host.Cell

/-- The Receiver half of an INGEST's trace label (60_exceptions R213). -/
inductive RxLabel where
  | start
  | drop
  | lenReject
  | lenOk
  | store
  | done
  | ckLo
  | ckFail
  deriving DecidableEq, Repr

/-- The decode half of an INGEST's trace label (60_exceptions R213). -/
inductive DecLabel where
  | none
  | stored (k : Kind)
  | fail (e : DecodeError)
  deriving DecidableEq, Repr

/-- The trace label of a step (60_exceptions R213). `none` is a pure function's; `rx` and `dec` are those
of a Receiver case and of a completion trigger run by themselves (log entry 17). -/
inductive Label where
  | none
  | ingest (rx : RxLabel) (dec : DecLabel)
  | take (m : Option Message)
  | reset
  | rx (l : RxLabel)
  | dec (l : DecLabel)
  deriving DecidableEq, Repr

/-- What a step returns to the host (00_scope R12): POLL's message, a function's value, or nothing. -/
inductive Output where
  | nothing
  | taken (m : Option Message)
  | word (w : Word)
  | symbol (w : Symbol)
  | bytes (p : List Byte)
  | decoded (r : DecodeResult)
  | lenChecked (r : LenResult)
  | record (v : Value)
  | frame (r : TxResult)
  deriving DecidableEq, Repr

/-- The one fault: the block never traps (60_exceptions R210). -/
inductive Fault where
  /-- A buffer index of 62 or more (20_memory R61: "a model that finds such an index has a bug and must
  fault"). Raised by the payload rule and by `data()`, in no reachable state. Safe. -/
  | bufIndex (i : Nat)
  deriving DecidableEq, Repr

/-- Why a step has no meaning. -/
inductive Refusal where
  /-- An instruction with no meaning yet. Raised by no arm of this model. Safe. -/
  | notModelled (mnemonic : String)
  /-- The row's selection condition, as spec/opcode_table.json and its rule state it, does not hold in this
  state (log entry 12). Raised by START, FOREIGN_ADDR, the RX rows and DECODE_STORE. Safe. -/
  | notSelected
  /-- A byte in a control position that 41_receiver R121 says no run reaches (log entry 13). Raised by
  ADD_TO_BUFFER and the words that feed it. Safe. -/
  | noReceiverCase
  /-- A request that is no instruction, by the decoder's reason; also a RESET whose configuration a model
  refuses (10_state R41, 93 I21). Safe. -/
  | badRequest (why : BadRequest)
  deriving DecidableEq, Repr

structure State where
  /-- 10_state R31 -/
  rxState  : RxState
  /-- 10_state R32 -/
  lenValid : Bool
  /-- 10_state R33 -/
  declLen  : Byte
  /-- 10_state R34 -/
  count    : Fin 63
  /-- 10_state R35 -/
  buf      : Mem
  /-- 10_state R36 -/
  ckCount  : Fin 3
  /-- 10_state R36 -/
  ckLo     : Byte
  /-- 10_state R37 -/
  mailbox  : Option Message
  /-- 00_scope R8, 10_state R41: constant between RESETs (log entry 5) -/
  cfg      : Cfg
  /-- what the last step returned (00_scope R12; log entry 4) -/
  out      : Output
  /-- the last step's trace label (60_exceptions R213; log entry 4) -/
  label    : Label
  /-- the requests the host presents, oldest group first (log entries 1 and 3) -/
  pending  : List (List Request)
  /-- the model's own: how many choices among requests presented at once were made (log entry 3) -/
  draws    : Nat
  deriving DecidableEq, Repr

/-- The state after RESET (10_state R46, 70_reset R240). The spec leaves `buf` and `ckLo` unspecified:
nothing listed and 0 (log entries 7 and 8). The configuration is the power-on one (log entry 6). -/
def State.reset : State where
  rxState  := .idle
  lenValid := false
  declLen  := 0
  count    := 0
  buf      := []
  ckCount  := 0
  ckLo     := 0
  mailbox  := none
  cfg      := .default
  out      := .nothing
  label    := .reset
  pending  := []
  draws    := 0

/-- What a partial operation answers: its result, a fault or a refusal. -/
abbrev Res (α : Type) := Host.Outcome α Fault Refusal

end Sys2Proof.Machine
end

