-- ==== Sys2Proof/Machine/Memory.lean ====
section
/-! DEFINITION. The Receiver buffer (10_state R35, 20_memory R61): 62 bytes, kept as a list of cells in
one canonical form, and the two access primitives MemRead and MemWrite. -/

namespace Sys2Proof.Machine

/-- What a byte of the buffer that nothing has written reads as. The spec leaves it unspecified (10_state
R46) and no rule reads it (R38). DESIGN CHOICE, unsafe (log entry 7). -/
def blankByte : Byte := 0x00

/-- The canonical form from index `lo` on: indices strictly rising, below 62, no blank byte listed. -/
def Memory.wfFrom (lo : Nat) : Mem → Bool
  | []          => true
  | (i, b) :: m => decide (lo ≤ i) && decide (i < bufSize) && b != blankByte && Memory.wfFrom (i + 1) m

/-- The canonical form of the buffer: equal contents are equal lists. -/
def Memory.wf (m : Mem) : Bool := Memory.wfFrom 0 m

/-- The byte at index `i`. -/
def memRead (i : Nat) : Mem → Byte
  | []          => blankByte
  | (j, b) :: m => if j = i then b else memRead i m

/-- The buffer without an entry for index `i`. -/
def memErase (i : Nat) (m : Mem) : Mem := m.filter fun c => c.1 != i

/-- Lists `b` at index `i`, before the first greater index. -/
def memInsert (i : Nat) (b : Byte) : Mem → Mem
  | []     => [(i, b)]
  | c :: m => if i < c.1 then (i, b) :: c :: m else c :: memInsert i b m

/-- The buffer with byte `b` at index `i`, in canonical form. -/
def memWrite (i : Nat) (b : Byte) (m : Mem) : Mem :=
  if b = blankByte then memErase i m else memInsert i b (memErase i m)

/-- MemWrite(i, 1, b) (00_scope R11): an index of 62 or more faults (20_memory R61). -/
def memStore (i : Nat) (b : Byte) (m : Mem) : Res Mem :=
  if i < bufSize then .next (memWrite i b m) else .fault (.bufIndex i)

/-- MemRead(0,1), …, MemRead(n-1,1) (00_scope R11): `n` bytes from index 0 on. An index of 62 faults
(20_memory R61). -/
def memLoad (n : Nat) (m : Mem) : Res (List Byte) :=
  if n ≤ bufSize then .next ((List.range n).map fun i => memRead i m) else .fault (.bufIndex bufSize)

end Sys2Proof.Machine
end

