-- ==== Sys2Proof/Machine/Ops.lean ====
section
/-! DEFINITION. The named operations over the state that the meanings share. The block has no exception
to take and none to return from (60_exceptions R210, R216, R217): what stands in their place is entering
the Error state, which saves nothing (`State.enterError`), and the recovery from it by START
(`State.beginFrame`) or RESET. -/

namespace Sys2Proof.Machine

/-- Runs `f` on a result; a fault or a refusal stops. -/
def andThen {α β : Type} (r : Res α) (f : α → Res β) : Res β :=
  match r with
  | .next a    => f a
  | .fault e   => .fault e
  | .refused e => .refused e

/-- The part of the state that selects rows (10_state R39, R41). -/
def State.ctx (s : State) : Ctx where
  cfg      := s.cfg
  rxState  := s.rxState
  lenValid := s.lenValid
  declLen  := s.declLen
  count    := s.count

/-- The end of a step: what it returns and its label (00_scope R12). -/
def State.finish (s : State) (o : Output) (l : Label) : State := { s with out := o, label := l }

/-- START (41_receiver R120): a new frame, in every state. `buf`, `ckLo` and `mailbox` are not touched. -/
def State.beginFrame (s : State) : State :=
  { s with declLen := 0, count := 0, lenValid := false, ckCount := 0, rxState := .receiving }

/-- Entering Error (60_exceptions R216): nothing but the Receiver's state changes. -/
def State.enterError (s : State) : State := { s with rxState := .error }

/-- The frame is complete (10_state R31). -/
def State.complete (s : State) : State := { s with rxState := .completed }

/-- The declared length is accepted (41_receiver R123, R124). -/
def State.acceptLength (s : State) (b : Byte) : State := { s with declLen := b, lenValid := true }

/-- A payload byte was stored, giving the buffer `m` (41_receiver R125). -/
def State.stored (s : State) (m : Mem) : State := { s with buf := m, count := Fin.ofNat 63 (s.count.val + 1) }

/-- The first check byte (44_transport R196). -/
def State.checkLow (s : State) (b : Byte) : State := { s with ckLo := b, ckCount := 1 }

/-- The second check byte was taken (44_transport R196). -/
def State.checkTaken (s : State) : State := { s with ckCount := 2 }

/-- The mailbox's new content (42_parser R143, R144). -/
def State.setMailbox (s : State) (m : Option Message) : State := { s with mailbox := m }

/-- RESET with the configuration `c` (70_reset R240): every field but `buf` and `ckLo`, which are not
written (log entry 9). -/
def State.restart (s : State) (c : Cfg) : State :=
  { s with rxState := .idle, lenValid := false, declLen := 0, count := 0, ckCount := 0, mailbox := none, cfg := c }

/-- The requests that remain to be served, and the number of choices made so far. -/
def State.setPending (s : State) (ps : List (List Request)) (n : Nat) : State :=
  { s with pending := ps, draws := n }

end Sys2Proof.Machine
end

