-- ==== Sys2Proof/Machine/Operands.lean ====
section
/-! DEFINITION. Operand forms: the assembled payload, the bytes of a payload, the message fields
(30_encoding R86 to R89, 43_message_codec R175), and a message's kind and discriminant (30_encoding R85). -/

namespace Sys2Proof.Machine

/-- `data()`: the assembled payload `buf[0..decl_len)` (41_receiver R127). -/
def State.payload (s : State) : Res (List Byte) := memLoad s.declLen.toNat s.buf

/-- Byte `i` of a payload, `p[i]` (00_scope R10). Every caller has checked `i < len(p)` (43_message_codec
R178: no rule reads past `len(p)`). -/
def byteAt (p : List Byte) (i : Nat) : Byte := p.getD i 0x00

/-- The 32-bit field of a payload, `LE32(p[1], p[2], p[3], p[4])` (30_encoding R87, R88, R89). -/
def valueField (p : List Byte) : Value := le32 (byteAt p 1) (byteAt p 2) (byteAt p 3) (byteAt p 4)

/-- The 10 opaque bytes of a Broadcast, `bytes[k] = p[1+k]` (30_encoding R86). -/
def broadcastField (p : List Byte) : Vector Byte 10 :=
  #v[byteAt p 1, byteAt p 2, byteAt p 3, byteAt p 4, byteAt p 5,
     byteAt p 6, byteAt p 7, byteAt p 8, byteAt p 9, byteAt p 10]

/-- `inputs(v) = v[11:0]` (43_message_codec R175). -/
def solenoidInputs (v : Value) : BitVec 12 := v.extractLsb' 0 12

/-- `outputs(v) = v[18:12]` (43_message_codec R175). -/
def solenoidOutputs (v : Value) : BitVec 7 := v.extractLsb' 12 7

/-- `reserved(v) = v[31:19]` (43_message_codec R175). -/
def solenoidReserved (v : Value) : BitVec 13 := v.extractLsb' 19 13

/-- The kind of a message (30_encoding R85). -/
def kindOf : Message → Kind
  | .broadcast _      => .broadcast
  | .discoveryRequest => .discoveryRequest
  | .discoveryAck     => .discoveryAck
  | .updateRequest _  => .updateRequest
  | .solenoidUpdate _ => .solenoidUpdate

/-- The discriminant of a kind (00_scope R7, 30_encoding R85). -/
def discriminant : Kind → Byte
  | .broadcast        => 0x00
  | .discoveryRequest => 0x01
  | .discoveryAck     => 0x02
  | .updateRequest    => 0x03
  | .solenoidUpdate   => 0x04

/-- The total message length of a kind (30_encoding R85). -/
def kindLength : Kind → Nat
  | .broadcast        => 11
  | .discoveryRequest => 1
  | .discoveryAck     => 1
  | .updateRequest    => 5
  | .solenoidUpdate   => 5

end Sys2Proof.Machine
end

