-- ==== Sys2Proof/Machine/Flags.lean ====
section
/-! DEFINITION. The status flags and the ports, which are functions of the state (10_state R40, R42, R43),
and the codes of labels and results (60_exceptions R211, R213). -/

namespace Sys2Proof.Machine

/-- `rx_done` (10_state R40). -/
def State.rxDone (s : State) : Bool := s.rxState == .completed

/-- `mbox_valid` (10_state R40). -/
def State.mboxValid (s : State) : Bool := s.mailbox.isSome

/-- `rx_status[1:0]`: Idle = 0, Receiving = 1, Completed = 2, Error = 3 (10_state R42). -/
def rxStatusCode : RxState → BitVec 2
  | .idle      => 0
  | .receiving => 1
  | .completed => 2
  | .error     => 3

/-- The status port: `rx_status` in bits 1:0 and `mbox_valid` in bit 2 (10_state R42). -/
def State.statusPort (s : State) : BitVec 3 := BitVec.ofBool s.mboxValid ++ rxStatusCode s.rxState

/-- `mbox_body[79:0]` of a message: byte k of a Broadcast in bits `[8k+7:8k]`, a 32-bit value in bits 31:0
with the rest 0, else 0 (10_state R43). -/
def mboxBody : Message → BitVec 80
  | .broadcast b      => b[9] ++ b[8] ++ b[7] ++ b[6] ++ b[5] ++ b[4] ++ b[3] ++ b[2] ++ b[1] ++ b[0]
  | .discoveryRequest => 0
  | .discoveryAck     => 0
  | .updateRequest v  => v.setWidth 80
  | .solenoidUpdate v => v.setWidth 80

/-- The mailbox output port, `mbox_kind` and `mbox_body` (10_state R43). Its value while `mbox_valid` is 0 is
unspecified and a model must not read it: the function answers none (log entry 24). -/
def State.mboxPort (s : State) : Option (Byte × BitVec 80) :=
  s.mailbox.map fun m => (discriminant (kindOf m), mboxBody m)

/-- The code of a transmit result: 0 OK, 1 FrameTooLong, 2 SendToSelf (60_exceptions R211). -/
def txCode : TxResult → BitVec 2
  | .words _             => 0
  | .error .frameTooLong => 1
  | .error .sendToSelf   => 2

/-- The code of a Receiver label (60_exceptions R213). -/
def rxLabelCode : RxLabel → BitVec 3
  | .start     => 0
  | .drop      => 1
  | .lenReject => 2
  | .lenOk     => 3
  | .store     => 4
  | .done      => 5
  | .ckLo      => 6
  | .ckFail    => 7

end Sys2Proof.Machine
end

