-- ==== Sys2Proof/Machine/WordCodec.lean ====
section
/-! DEFINITION. The word codec's operations (40_word_codec): combinational, no state, no failure. -/

namespace Sys2Proof.Machine

/-- WORD_DECODE (40_word_codec R110). -/
def execWordDecode (w : Symbol) (s : State) : Res State :=
  .next (s.finish (.word (wordDecode w)) .none)

/-- WORD_ENCODE_ADDR (40_word_codec R111). -/
def execWordEncodeAddr (a : Byte) (s : State) : Res State :=
  .next (s.finish (.symbol (wordEncodeAddr a)) .none)

/-- WORD_ENCODE_DATA (40_word_codec R112). -/
def execWordEncodeData (b : Byte) (s : State) : Res State :=
  .next (s.finish (.symbol (wordEncodeData b)) .none)

end Sys2Proof.Machine
end

