-- ==== Sys2Proof/Machine/MessageCodec.lean ====
section
/-! DEFINITION. The message type decoder and encoder (43_message_codec): pure and total. -/

namespace Sys2Proof.Machine

/-! ### Decoder -/

/-- CHECK_LEN(p, n) (43_message_codec R166), of a byte list of any length. -/
def checkLen (pol : ExcessPolicy) (p : List Byte) (n : Nat) : LenResult :=
  if p.length < n then .err .short
  else if n < p.length ∧ pol = .reject then .err .excess
  else .ok

/-- A kind rule: `CHECK_LEN(p, n)?`, then the message (43_message_codec R161 to R166). The payload of MSG_DECODE
is 0 to 62 bytes long (R160, R178); of a longer one the result is a free value (log entry 23). -/
def decodeKind (pol : ExcessPolicy) (n : Nat) (p : List Byte) (m : Message) : DecodeResult :=
  if maxDataLen < p.length then Config.longDecode pol p
  else
    match checkLen pol p n with
    | .ok    => .ok m
    | .err e => .err e

/-- DEC_BROADCAST (43_message_codec R161). -/
def decBroadcast (pol : ExcessPolicy) (p : List Byte) : DecodeResult :=
  decodeKind pol 11 p (.broadcast (broadcastField p))

/-- DEC_DISCOVERY_REQUEST (43_message_codec R162). -/
def decDiscoveryRequest (pol : ExcessPolicy) (p : List Byte) : DecodeResult :=
  decodeKind pol 1 p .discoveryRequest

/-- DEC_DISCOVERY_ACK (43_message_codec R163). -/
def decDiscoveryAck (pol : ExcessPolicy) (p : List Byte) : DecodeResult :=
  decodeKind pol 1 p .discoveryAck

/-- DEC_UPDATE_REQUEST (43_message_codec R164). -/
def decUpdateRequest (pol : ExcessPolicy) (p : List Byte) : DecodeResult :=
  decodeKind pol 5 p (.updateRequest (valueField p))

/-- DEC_SOLENOID_UPDATE (43_message_codec R165): all 32 bits kept. -/
def decSolenoidUpdate (pol : ExcessPolicy) (p : List Byte) : DecodeResult :=
  decodeKind pol 5 p (.solenoidUpdate (valueField p))

/-- An unrecognized discriminant (43_message_codec R167), whatever the length. -/
def decUnrecognized : DecodeResult := .err .unrecognized

/-- An empty payload (43_message_codec R168). -/
def decEmpty : DecodeResult := .err .short

/-- MSG_DECODE(p) (43_message_codec R160): the discriminant first, then the length. -/
def msgDecode (pol : ExcessPolicy) (p : List Byte) : DecodeResult :=
  match p with
  | []     => decEmpty
  | d :: _ =>
    if d = 0x00 then decBroadcast pol p
    else if d = 0x01 then decDiscoveryRequest pol p
    else if d = 0x02 then decDiscoveryAck pol p
    else if d = 0x03 then decUpdateRequest pol p
    else if d = 0x04 then decSolenoidUpdate pol p
    else decUnrecognized

/-- A pure function's step: its value, no state written (00_scope R12). -/
def answer (s : State) (o : Output) : Res State := .next (s.finish o .none)

/-- DEC_BROADCAST, on the payload `00 :: rest`. -/
def execDecBroadcast (rest : List Byte) (s : State) : Res State :=
  answer s (.decoded (decBroadcast s.cfg.excessPolicy (0x00 :: rest)))

/-- DEC_DISCOVERY_REQUEST, on the payload `01 :: rest`. -/
def execDecDiscoveryRequest (rest : List Byte) (s : State) : Res State :=
  answer s (.decoded (decDiscoveryRequest s.cfg.excessPolicy (0x01 :: rest)))

/-- DEC_DISCOVERY_ACK, on the payload `02 :: rest`. -/
def execDecDiscoveryAck (rest : List Byte) (s : State) : Res State :=
  answer s (.decoded (decDiscoveryAck s.cfg.excessPolicy (0x02 :: rest)))

/-- DEC_UPDATE_REQUEST, on the payload `03 :: rest`. -/
def execDecUpdateRequest (rest : List Byte) (s : State) : Res State :=
  answer s (.decoded (decUpdateRequest s.cfg.excessPolicy (0x03 :: rest)))

/-- DEC_SOLENOID_UPDATE, on the payload `04 :: rest`. -/
def execDecSolenoidUpdate (rest : List Byte) (s : State) : Res State :=
  answer s (.decoded (decSolenoidUpdate s.cfg.excessPolicy (0x04 :: rest)))

/-- Discriminant 05 (43_message_codec R167). -/
def execDecUnrecognized05 (_rest : List Byte) (s : State) : Res State :=
  answer s (.decoded decUnrecognized)

/-- Discriminants 06 and 07 (43_message_codec R167). -/
def execDecUnrecognized06 (_x : BitVec 1) (_rest : List Byte) (s : State) : Res State :=
  answer s (.decoded decUnrecognized)

/-- Discriminants 08 to 0F (43_message_codec R167). -/
def execDecUnrecognized08 (_x : BitVec 3) (_rest : List Byte) (s : State) : Res State :=
  answer s (.decoded decUnrecognized)

/-- Discriminants 10 to 1F (43_message_codec R167). -/
def execDecUnrecognized10 (_x : BitVec 4) (_rest : List Byte) (s : State) : Res State :=
  answer s (.decoded decUnrecognized)

/-- Discriminants 20 to 3F (43_message_codec R167). -/
def execDecUnrecognized20 (_x : BitVec 5) (_rest : List Byte) (s : State) : Res State :=
  answer s (.decoded decUnrecognized)

/-- Discriminants 40 to 7F (43_message_codec R167). -/
def execDecUnrecognized40 (_x : BitVec 6) (_rest : List Byte) (s : State) : Res State :=
  answer s (.decoded decUnrecognized)

/-- Discriminants 80 to FF (43_message_codec R167). -/
def execDecUnrecognized80 (_x : BitVec 7) (_rest : List Byte) (s : State) : Res State :=
  answer s (.decoded decUnrecognized)

/-- DEC_EMPTY: no discriminant byte (43_message_codec R168). -/
def execDecEmpty (s : State) : Res State :=
  answer s (.decoded decEmpty)

/-- MSG_DECODE (43_message_codec R160). -/
def execMsgDecode (p : List Byte) (s : State) : Res State :=
  answer s (.decoded (msgDecode s.cfg.excessPolicy p))

/-- CHECK_LEN (43_message_codec R166). -/
def execCheckLen (p : List Byte) (n : Nat) (s : State) : Res State :=
  answer s (.lenChecked (checkLen s.cfg.excessPolicy p n))

/-! ### Encoder -/

/-- ENC_BROADCAST (43_message_codec R170). -/
def encBroadcast (b : Vector Byte 10) : List Byte := 0x00 :: b.toList

/-- ENC_DISCOVERY_REQUEST (43_message_codec R171). -/
def encDiscoveryRequest : List Byte := [0x01]

/-- ENC_DISCOVERY_ACK (43_message_codec R172). -/
def encDiscoveryAck : List Byte := [0x02]

/-- ENC_UPDATE_REQUEST (43_message_codec R173). -/
def encUpdateRequest (v : Value) : List Byte := 0x03 :: bytesLe32 v

/-- ENC_SOLENOID_UPDATE (43_message_codec R174): reserved bits sent unchanged. -/
def encSolenoidUpdate (v : Value) : List Byte := 0x04 :: bytesLe32 v

/-- MSG_ENCODE(m) (43_message_codec R169). -/
def msgEncode : Message → List Byte
  | .broadcast b      => encBroadcast b
  | .discoveryRequest => encDiscoveryRequest
  | .discoveryAck     => encDiscoveryAck
  | .updateRequest v  => encUpdateRequest v
  | .solenoidUpdate v => encSolenoidUpdate v

/-- ENC_BROADCAST (43_message_codec R170). -/
def execEncBroadcast (b : Vector Byte 10) (s : State) : Res State :=
  answer s (.bytes (encBroadcast b))

/-- ENC_DISCOVERY_REQUEST (43_message_codec R171). -/
def execEncDiscoveryRequest (s : State) : Res State :=
  answer s (.bytes encDiscoveryRequest)

/-- ENC_DISCOVERY_ACK (43_message_codec R172). -/
def execEncDiscoveryAck (s : State) : Res State :=
  answer s (.bytes encDiscoveryAck)

/-- ENC_UPDATE_REQUEST (43_message_codec R173). -/
def execEncUpdateRequest (v : Value) (s : State) : Res State :=
  answer s (.bytes (encUpdateRequest v))

/-- ENC_SOLENOID_UPDATE (43_message_codec R174). -/
def execEncSolenoidUpdate (v : Value) (s : State) : Res State :=
  answer s (.bytes (encSolenoidUpdate v))

/-- MSG_ENCODE (43_message_codec R169). -/
def execMsgEncode (m : Message) (s : State) : Res State :=
  answer s (.bytes (msgEncode m))

/-! ### The SolenoidUpdate constructor -/

/-- `SOLENOID(inputs, outputs, reserved)` (43_message_codec R176). -/
def solenoid (inputs : BitVec 12) (outputs : BitVec 7) (reserved : BitVec 13) : Value :=
  inputs.setWidth 32 ||| (outputs.setWidth 32 <<< 12) ||| (reserved.setWidth 32 <<< 19)

/-- SOLENOID (43_message_codec R176). -/
def execSolenoid (inputs : BitVec 12) (outputs : BitVec 7) (reserved : BitVec 13) (s : State) : Res State :=
  answer s (.record (solenoid inputs outputs reserved))

end Sys2Proof.Machine
end

