-- ==== Sys2Proof/Machine/Receiver.lean ====
section
/-! DEFINITION. The Receiver (41_receiver) with the check phase of 44_transport R196: ADD_TO_BUFFER by its
case rules, and `data()`. START is `State.beginFrame`, triggered by a word (Parser.lean). -/

namespace Sys2Proof.Machine

/-- RX_LEN_REJECT (41_receiver R122): the Receiver enters Error. -/
def lenReject (s : State) : State × RxLabel := (s.enterError, .lenReject)

/-- RX_LEN_OK (41_receiver R123). -/
def lenOk (b : Byte) (s : State) : State × RxLabel := (s.acceptLength b, .lenOk)

/-- RX_LEN_ZERO (41_receiver R124): without a check phase the frame is complete at once. -/
def lenZero (s : State) : State × RxLabel :=
  if s.cfg.integrity then (s.acceptLength 0, .lenOk) else ((s.acceptLength 0).complete, .done)

/-- RX_PAYLOAD (41_receiver R125): stores at index count, then counts; the last byte completes the frame
unless a check phase follows. -/
def storePayload (b : Byte) (s : State) : Res (State × RxLabel) :=
  andThen (memStore s.count.val b s.buf) fun m =>
    let t := s.stored m
    if t.count.val = t.declLen.toNat ∧ t.cfg.integrity = false then .next (t.complete, .done)
    else .next (t, .store)

/-- RX_DROP (41_receiver R126): no state change. -/
def dropByte (s : State) : State × RxLabel := (s, .drop)

/-- RX_CHECK (44_transport R196): the low byte, then the high byte and the comparison with CHECK_FN. -/
def checkByte (b : Byte) (s : State) : Res (State × RxLabel) :=
  if s.ckCount = 0 then .next (s.checkLow b, .ckLo)
  else
    andThen s.payload fun p =>
      if le16 s.ckLo b = Config.checkFn s.cfg.checkSel s.cfg.localAddr s.declLen p then
        .next (s.checkTaken.complete, .done)
      else .next (s.checkTaken.enterError, .ckFail)

/-- The effect of a case rule on the byte `b`. -/
def rxEffect (c : RxCase) (b : Byte) (s : State) : Res (State × RxLabel) :=
  match c with
  | .lenReject => .next (lenReject s)
  | .lenOk     => .next (lenOk b s)
  | .lenZero   => .next (lenZero s)
  | .payload   => storePayload b s
  | .drop      => .next (dropByte s)
  | .check     => checkByte b s

/-- ADD_TO_BUFFER(b) (41_receiver R121). -/
def addToBuffer (b : Byte) (s : State) : Res (State × RxLabel) :=
  match rxSelect s.ctx b with
  | some c => rxEffect c b s
  | none   => .refused .noReceiverCase

/-- The end of a Receiver operation run by itself: no completion trigger (log entry 17). -/
def finishRx (r : Res (State × RxLabel)) : Res State :=
  andThen r fun p => .next (p.1.finish .nothing (.rx p.2))

/-- A row of RXBYTE run by itself, where 41_receiver R121 selects it (log entry 12). -/
def runRxRow (c : RxCase) (b : Byte) (s : State) : Res State :=
  if rxSelect s.ctx b = some c then finishRx (rxEffect c b s) else .refused .notSelected

/-- RX_LEN_REJECT (41_receiver R122). -/
def execRxLenReject (b : Byte) (s : State) : Res State := runRxRow .lenReject b s

/-- RX_LEN_OK (41_receiver R123). -/
def execRxLenOk (b : Byte) (s : State) : Res State := runRxRow .lenOk b s

/-- RX_LEN_ZERO (41_receiver R124): the byte is 0. -/
def execRxLenZero (s : State) : Res State := runRxRow .lenZero 0x00 s

/-- RX_PAYLOAD (41_receiver R125). -/
def execRxPayload (b : Byte) (s : State) : Res State := runRxRow .payload b s

/-- RX_DROP (41_receiver R126). -/
def execRxDrop (b : Byte) (s : State) : Res State := runRxRow .drop b s

/-- RX_CHECK (44_transport R196). -/
def execRxCheck (b : Byte) (s : State) : Res State := runRxRow .check b s

/-- ADD_TO_BUFFER (41_receiver R121). -/
def execAddToBuffer (b : Byte) (s : State) : Res State := finishRx (addToBuffer b s)

/-- DATA_READ: `data()` (41_receiver R127), in any state (log entry 14). -/
def execDataRead (s : State) : Res State :=
  andThen s.payload fun p => .next (s.finish (.bytes p) .none)

end Sys2Proof.Machine
end

