-- ==== Sys2Proof/Machine/Parser.lean ====
section
/-! DEFINITION. The Parser (42_parser): the address filter, the completion trigger, the mailbox. -/

namespace Sys2Proof.Machine

/-- DECODE_STORE (42_parser R143): a decoded message overwrites the mailbox; a failure leaves it. -/
def decodeStore (s : State) : Res (State × DecLabel) :=
  andThen s.payload fun p =>
    match msgDecode s.cfg.excessPolicy p with
    | .ok m  => .next (s.setMailbox (some m), .stored (kindOf m))
    | .err e => .next (s, .fail e)

/-- Whether the completion trigger fires (42_parser R142). -/
def triggerFires (before : RxState) (s : State) : Bool :=
  match s.cfg.decodeTrigger with
  | .edge  => s.rxState == .completed && before != .completed
  | .level => s.rxState == .completed

/-- COMPLETION_TRIGGER(before) (42_parser R142). -/
def completionTrigger (before : RxState) (s : State) : Res (State × DecLabel) :=
  if triggerFires before s then decodeStore s else .next (s, .none)

/-- The end of an INGEST: the completion trigger, then the label (42_parser R140, 60_exceptions R213). -/
def finishIngest (before : RxState) (t : State) (rx : RxLabel) : Res State :=
  andThen (completionTrigger before t) fun p => .next (p.1.finish .nothing (.ingest rx p.2))

/-- A matching address word: START, then the completion trigger (42_parser R140). -/
def matchWord (s : State) : Res State := finishIngest s.rxState s.beginFrame .start

/-- Any other word: its low byte to ADD_TO_BUFFER, then the completion trigger (42_parser R140). -/
def feedByte (b : Byte) (s : State) : Res State :=
  andThen (addToBuffer b s) fun p => finishIngest s.rxState p.1 p.2

/-- INGEST(w) (42_parser R140). -/
def ingest (w : Symbol) (s : State) : Res State :=
  match wordDecode w with
  | .addr a => if a = s.cfg.localAddr then matchWord s else feedByte a s
  | .data b => feedByte b s

/-- START: the word is an address word equal to `LOCAL_ADDR` (41_receiver R120, 42_parser R141). -/
def execStart (a : Byte) (s : State) : Res State :=
  if a = s.cfg.localAddr then matchWord s else .refused .notSelected

/-- FOREIGN_ADDR: the word is an address word that differs from `LOCAL_ADDR` (42_parser R140, R141). -/
def execForeignAddr (a : Byte) (s : State) : Res State :=
  if a = s.cfg.localAddr then .refused .notSelected else feedByte a s

/-- DATA: the word is a data word (42_parser R140, 41_receiver R121). -/
def execData (d : Byte) (s : State) : Res State := feedByte d s

/-- INGEST (42_parser R140). -/
def execIngest (w : Symbol) (s : State) : Res State := ingest w s

/-- POLL (42_parser R144): takes the mailbox and clears it, in one step. -/
def execPoll (s : State) : Res State :=
  .next ((s.setMailbox none).finish (.taken s.mailbox) (.take s.mailbox))

/-- COMPLETION_TRIGGER run by itself (42_parser R142; log entry 17). -/
def execCompletionTrigger (before : RxState) (s : State) : Res State :=
  andThen (completionTrigger before s) fun p => .next (p.1.finish .nothing (.dec p.2))

/-- DECODE_STORE run by itself, under its precondition that the frame is complete (42_parser R143; log
entries 12 and 17). -/
def execDecodeStore (s : State) : Res State :=
  if s.rxState = .completed then
    andThen (decodeStore s) fun p => .next (p.1.finish .nothing (.dec p.2))
  else .refused .notSelected

end Sys2Proof.Machine
end

