-- ==== Sys2Proof/Machine/Transport.lean ====
section
/-! DEFINITION. The transmit functions (44_transport R190 to R195): pure functions of the configuration and
their arguments. -/

namespace Sys2Proof.Machine

/-- The check code words of a frame, none with `INTEGRITY` off (44_transport R194). -/
def checkWords (c : Cfg) (a : Byte) (p : List Byte) : List Symbol :=
  if c.integrity then
    (bytesLe16 (Config.checkFn c.checkSel a (BitVec.ofNat 8 p.length) p)).map wordEncodeData
  else []

/-- The word sequence of a frame (44_transport R193, R194). -/
def frameWords (c : Cfg) (a : Byte) (p : List Byte) : List Symbol :=
  wordEncodeAddr a :: wordEncodeData (BitVec.ofNat 8 p.length) :: p.map wordEncodeData ++ checkWords c a p

/-- TX_FRAME(a, p) (44_transport R190): the two send-time errors in their order, then the frame. -/
def txFrame (c : Cfg) (a : Byte) (p : List Byte) : TxResult :=
  if maxDataLen < p.length then .error .frameTooLong
  else if a = c.localAddr ∧ c.loopback = false then .error .sendToSelf
  else .words (frameWords c a p)

/-- TX_MESSAGE(a, m) = TX_FRAME(a, MSG_ENCODE(m)) (44_transport R195). -/
def txMessage (c : Cfg) (a : Byte) (m : Message) : TxResult := txFrame c a (msgEncode m)

/-- TX_FRAME (44_transport R190). -/
def execTxFrame (a : Byte) (p : List Byte) (s : State) : Res State :=
  answer s (.frame (txFrame s.cfg a p))

/-- TX_MESSAGE (44_transport R195). -/
def execTxMessage (a : Byte) (m : Message) (s : State) : Res State :=
  answer s (.frame (txMessage s.cfg a m))

end Sys2Proof.Machine
end

