-- ==== Sys2Proof/Machine/Control.lean ====
section
/-! DEFINITION. RESET (70_reset R240), and the fetch of the next request (00_scope R12, 60_exceptions
R215). -/

namespace Sys2Proof.Machine

/-- RESET, sampling the configuration `c` (70_reset R240), unless `checkCfg` names why a model refuses it
(10_state R41, 93 I21). -/
def execReset (c : Cfg) (s : State) : Res State :=
  match checkCfg c with
  | none   => .next ((s.restart c).finish .nothing .reset)
  | some e => .refused (.badRequest e)

/-- The next request of `pending`, with what remains and the choices made so far. Of requests presented at
once the free value `Config.pick` takes one, and the others stay presented (60_exceptions R215). -/
def fetchFrom (n : Nat) : List (List Request) → Option (Request × List (List Request) × Nat)
  | []                         => none
  | [] :: rest                 => fetchFrom n rest
  | [r] :: rest                => some (r, rest, n)
  | (r :: q :: more) :: rest   =>
    let group := r :: q :: more
    let k := Config.pick n % group.length
    some (group.getD k r, group.eraseIdx k :: rest, n + 1)

/-- The next request of the state, and the state without it. -/
def fetch (s : State) : Option (Request × State) :=
  (fetchFrom s.draws s.pending).map fun f => (f.1, s.setPending f.2.1 f.2.2)

end Sys2Proof.Machine
end

