-- ==== Sys2Proof/Machine/Dispatch.lean ====
section
/-! DEFINITION. The meaning of every instruction: one arm per row of spec/opcode_table.json, in its order. -/

namespace Sys2Proof.Machine

def exec (i : Instr) (s : State) : Host.Outcome State Fault Refusal :=
  match i with
  | .start a => Sys2Proof.Machine.execStart a s
  | .foreignAddr a => Sys2Proof.Machine.execForeignAddr a s
  | .data d => Sys2Proof.Machine.execData d s
  | .rxLenReject b => Sys2Proof.Machine.execRxLenReject b s
  | .rxLenOk b => Sys2Proof.Machine.execRxLenOk b s
  | .rxLenZero => Sys2Proof.Machine.execRxLenZero s
  | .rxPayload b => Sys2Proof.Machine.execRxPayload b s
  | .rxDrop b => Sys2Proof.Machine.execRxDrop b s
  | .rxCheck b => Sys2Proof.Machine.execRxCheck b s
  | .decBroadcast rest => Sys2Proof.Machine.execDecBroadcast rest s
  | .decDiscoveryRequest rest => Sys2Proof.Machine.execDecDiscoveryRequest rest s
  | .decDiscoveryAck rest => Sys2Proof.Machine.execDecDiscoveryAck rest s
  | .decUpdateRequest rest => Sys2Proof.Machine.execDecUpdateRequest rest s
  | .decSolenoidUpdate rest => Sys2Proof.Machine.execDecSolenoidUpdate rest s
  | .decUnrecognized05 rest => Sys2Proof.Machine.execDecUnrecognized05 rest s
  | .decUnrecognized06 x rest => Sys2Proof.Machine.execDecUnrecognized06 x rest s
  | .decUnrecognized08 x rest => Sys2Proof.Machine.execDecUnrecognized08 x rest s
  | .decUnrecognized10 x rest => Sys2Proof.Machine.execDecUnrecognized10 x rest s
  | .decUnrecognized20 x rest => Sys2Proof.Machine.execDecUnrecognized20 x rest s
  | .decUnrecognized40 x rest => Sys2Proof.Machine.execDecUnrecognized40 x rest s
  | .decUnrecognized80 x rest => Sys2Proof.Machine.execDecUnrecognized80 x rest s
  | .decEmpty => Sys2Proof.Machine.execDecEmpty s
  | .encBroadcast bytes => Sys2Proof.Machine.execEncBroadcast bytes s
  | .encDiscoveryRequest => Sys2Proof.Machine.execEncDiscoveryRequest s
  | .encDiscoveryAck => Sys2Proof.Machine.execEncDiscoveryAck s
  | .encUpdateRequest v => Sys2Proof.Machine.execEncUpdateRequest v s
  | .encSolenoidUpdate v => Sys2Proof.Machine.execEncSolenoidUpdate v s
  | .ingest w => Sys2Proof.Machine.execIngest w s
  | .poll => Sys2Proof.Machine.execPoll s
  | .reset c => Sys2Proof.Machine.execReset c s
  | .txFrame a p => Sys2Proof.Machine.execTxFrame a p s
  | .txMessage a m => Sys2Proof.Machine.execTxMessage a m s
  | .msgEncode m => Sys2Proof.Machine.execMsgEncode m s
  | .wordDecode w => Sys2Proof.Machine.execWordDecode w s
  | .wordEncodeAddr a => Sys2Proof.Machine.execWordEncodeAddr a s
  | .wordEncodeData b => Sys2Proof.Machine.execWordEncodeData b s
  | .addToBuffer b => Sys2Proof.Machine.execAddToBuffer b s
  | .dataRead => Sys2Proof.Machine.execDataRead s
  | .completionTrigger before => Sys2Proof.Machine.execCompletionTrigger before s
  | .decodeStore => Sys2Proof.Machine.execDecodeStore s
  | .msgDecode p => Sys2Proof.Machine.execMsgDecode p s
  | .checkLen p n => Sys2Proof.Machine.execCheckLen p n s
  | .solenoid inputs outputs reserved => Sys2Proof.Machine.execSolenoid inputs outputs reserved s

end Sys2Proof.Machine
end

