-- ==== Sys2Proof/Machine/Step.lean ====
section
/-! DEFINITION. One step: the next request the host presents is taken, decoded and run (00_scope R12). With
no request presented the state stays as it is (log entry 2). -/

namespace Sys2Proof.Machine

def step (s : State) : Host.Outcome State Fault Refusal :=
  match fetch s with
  | none => .next s
  | some (r, t) =>
    match decode t.ctx r with
    | .ok i    => exec i t
    | .bad why => .refused (.badRequest why)

/-- `s` with the word of spec/opcode_table.json presented as the next request (log entry 1). -/
def State.withFetchWord (s : State) (nbits w : Nat) : State :=
  { s with pending := [tableRequest nbits w] :: s.pending }

end Sys2Proof.Machine
end

