-- ==== Sys2Proof/Safety.lean ====
section
/-! DEFINITION. The terms the claims use: the invariant of every reachable state (10_state R38), states
that differ only where the spec leaves a value unspecified (10_state R46), runs of received words, and which
host context presents an operation (60_exceptions R218). -/

namespace Sys2Proof.Machine

/-- The invariants of 10_state R38, with the boot requirements on the configuration (70_reset R242) and the
canonical form of the buffer. The clauses on which bytes were written since START are `SameButStale`'s. -/
structure Inv (s : State) : Prop where
  /-- the configuration is one RESET accepts -/
  bootCfg     : s.cfg.wf = true
  /-- the buffer's cells are in canonical form -/
  bufWf       : Memory.wf s.buf = true
  /-- invariant 1, with the declared length that START and RESET write (10_state R33; log entry 27) -/
  lengthPhase : s.lenValid = false → s.count = 0 ∧ s.ckCount = 0 ∧ s.declLen = 0
  /-- invariant 2 -/
  lengthBound : s.lenValid = true →
    s.declLen.toNat ≤ s.cfg.lenLimit.toNat ∧ s.cfg.lenLimit.toNat ≤ maxDataLen ∧ s.count.val ≤ s.declLen.toNat
  /-- invariant 3 -/
  checkPhase  : s.ckCount ≠ 0 → s.cfg.integrity = true ∧ s.lenValid = true ∧ s.count.val = s.declLen.toNat
  /-- invariant 4 -/
  completed   : s.rxState = .completed → s.lenValid = true ∧ s.count.val = s.declLen.toNat
  /-- invariant 5 -/
  receiving   : s.rxState = .receiving → s.lenValid = true →
    s.count.val < s.declLen.toNat ∨
      (s.cfg.integrity = true ∧ s.count.val = s.declLen.toNat ∧ s.ckCount ≠ 2)

/-- `s` and `t` differ at most where no rule may look: in buffer bytes at or above `count`, which were not
written since the last START, and in `ckLo` unless the first check byte was just taken (10_state R35, R36,
R46; 93 I1, I2). What the last step returned and its label are the same in both. -/
structure SameButStale (s t : State) : Prop where
  rxState  : s.rxState = t.rxState
  lenValid : s.lenValid = t.lenValid
  declLen  : s.declLen = t.declLen
  count    : s.count = t.count
  ckCount  : s.ckCount = t.ckCount
  mailbox  : s.mailbox = t.mailbox
  cfg      : s.cfg = t.cfg
  out      : s.out = t.out
  label    : s.label = t.label
  pending  : s.pending = t.pending
  draws    : s.draws = t.draws
  bytes    : ∀ i < s.count.val, memRead i s.buf = memRead i t.buf
  lowByte  : s.ckCount = 1 → s.ckLo = t.ckLo

/-- The list that `data()` assembles: `buf[0..decl_len)` (41_receiver R127). -/
def State.assembled (s : State) : List Byte := (List.range s.declLen.toNat).map fun i => memRead i s.buf

/-- The words `ws`, ingested in order with no other event in between. -/
def ingestAll : List Symbol → State → Res State
  | [], s      => .next s
  | w :: ws, s => andThen (exec (.ingest w) s) (ingestAll ws)

/-- The words that are no START for the local address `a` (42_parser R141). -/
def notMatching (a : Byte) (w : Symbol) : Prop := w ≠ wordEncodeAddr a

/-- The host's contexts (60_exceptions R218). -/
inductive HostContext where
  | interrupt
  | foreground
  deriving DecidableEq, Repr

/-- Which context presents a host-port operation (60_exceptions R218); `none` for RESET and for the block's
own functions. The block cannot tell, so nothing in the machine depends on it (60_exceptions R219). -/
def hostContext : Request → Option HostContext
  | .word9 _       => some .interrupt
  | .ingest _      => some .interrupt
  | .poll          => some .foreground
  | .txFrame _ _   => some .foreground
  | .txMessage _ _ => some .foreground
  | .msgEncode _   => some .foreground
  | _              => none

end Sys2Proof.Machine
end

