-- ==== Sys2Proof/Certificates/Slice0/Obligations.lean ====
section
/-! DEFINITION. The statements for the provers. Each docstring names the rule of spec/ it formalises. A
result `next { s with … }` says the frame as well: every field not named is as before. -/

open Sys2Proof Sys2Proof.Machine

/-! ### The word codec (40_word_codec) -/

/-- R110: bit 8 alone tells an address word from a data word; nothing of the block's state is written. -/
def Obligations.WordDecodeReadsTheMarker : Prop :=
  ∀ (w : Symbol) (s : State),
    exec (.wordDecode w) s = .next { s with
      out := .word (if w[8] then .addr (w.extractLsb' 0 8) else .data (w.extractLsb' 0 8)), label := .none }

/-- R111 and R112: an address word is `(1 << 8) | zext_9(a)`, a data word is `zext_9(b)`. -/
def Obligations.WordEncodersPlaceTheMarker : Prop :=
  ∀ (a b : Byte) (s : State),
    exec (.wordEncodeAddr a) s = .next { s with out := .symbol ((1#9 <<< 8) ||| a.setWidth 9), label := .none } ∧
    exec (.wordEncodeData b) s = .next { s with out := .symbol (b.setWidth 9), label := .none }

/-- R113: the laws of the word codec. -/
def Obligations.WordCodecLaws : Prop :=
  (∀ a : Byte, wordDecode (wordEncodeAddr a) = .addr a) ∧
  (∀ b : Byte, wordDecode (wordEncodeData b) = .data b) ∧
  (∀ w : Symbol, (∃ a, wordDecode w = .addr a ∧ wordEncodeAddr a = w) ∨
    (∃ b, wordDecode w = .data b ∧ wordEncodeData b = w)) ∧
  (∀ a b : Byte, wordEncodeAddr a ≠ wordEncodeData b)

/-! ### Received words (42_parser R140, R141) -/

/-- R120: a matching address word begins a frame, in every state; `buf`, `ckLo` and the mailbox are not
touched. -/
def Obligations.StartBeginsAFrame : Prop :=
  ∀ (s : State),
    exec (.start s.cfg.localAddr) s = .next { s with
      declLen := 0, count := 0, lenValid := false, ckCount := 0, rxState := .receiving,
      out := .nothing, label := .ingest .start .none }

/-- R140 and R141: INGEST is START on the address word equal to LOCAL_ADDR, FOREIGN_ADDR on any other address
word, DATA on a data word (which is never compared with LOCAL_ADDR). -/
def Obligations.IngestActsOnTheWord : Prop :=
  ∀ (s : State) (a b : Byte),
    (a = s.cfg.localAddr → exec (.ingest (wordEncodeAddr a)) s = exec (.start a) s) ∧
    (a ≠ s.cfg.localAddr → exec (.ingest (wordEncodeAddr a)) s = exec (.foreignAddr a) s) ∧
    exec (.ingest (wordEncodeData b)) s = exec (.data b) s

/-- R246: a foreign address word is taken exactly as the data word with the same low 8 bits. -/
def Obligations.ForeignAddressIsTakenAsData : Prop :=
  ∀ (s : State) (a : Byte), a ≠ s.cfg.localAddr → exec (.foreignAddr a) s = exec (.data a) s

/-- R140 and R213: the word's byte goes to ADD_TO_BUFFER, then COMPLETION_TRIGGER runs with the Receiver's state
from before the word, and the label is the pair of both. -/
def Obligations.IngestIsReceiverThenTrigger : Prop :=
  ∀ (s u v : State) (b : Byte) (l : RxLabel) (d : DecLabel),
    exec (.addToBuffer b) s = .next u → u.label = .rx l →
    exec (.completionTrigger s.rxState) u = .next v → v.label = .dec d →
    exec (.data b) s = .next { v with label := .ingest l d }

/-- R210 for received words, with the frame of R140: in every state with the invariant a word completes. The
configuration and the input are as before; one buffer byte at most, the one at `count`, is written; the
mailbox changes only where the frame is complete; the check byte only where the Receiver is receiving. -/
def Obligations.EveryWordCompletes : Prop :=
  ∀ (s : State), Inv s → ∀ (i : Instr),
    ((∃ w, i = .ingest w) ∨ (∃ d, i = .data d) ∨ (∃ a, a ≠ s.cfg.localAddr ∧ i = .foreignAddr a)) →
    ∃ t, exec i s = .next t ∧ t.cfg = s.cfg ∧ t.pending = s.pending ∧ t.draws = s.draws ∧ t.out = .nothing ∧
      (∃ l d, t.label = .ingest l d) ∧
      (∀ j, j ≠ s.count.val → memRead j t.buf = memRead j s.buf) ∧
      (t.mailbox = s.mailbox ∨ t.rxState = .completed) ∧
      (t.ckLo = s.ckLo ∨ s.rxState = .receiving)

/-- The model's choice (log entry 12): a word row whose selection condition fails is refused by name. -/
def Obligations.WordRowsNeedTheirAddress : Prop :=
  ∀ (s : State) (a : Byte),
    (a ≠ s.cfg.localAddr → exec (.start a) s = .refused .notSelected) ∧
    (a = s.cfg.localAddr → exec (.foreignAddr a) s = .refused .notSelected)

/-! ### The Receiver (41_receiver) and its check phase (44_transport R196) -/

/-- R122: a length byte above LEN_LIMIT sends the Receiver to Error and changes nothing else (the spec's
decisions D4 and D5). -/
def Obligations.LengthAboveLimitIsRejected : Prop :=
  ∀ (s : State) (b : Byte), s.rxState = .receiving → s.lenValid = false → s.cfg.lenLimit.toNat < b.toNat →
    exec (.rxLenReject b) s = .next { s with rxState := .error, out := .nothing, label := .rx .lenReject }

/-- R123: a length byte of 1 to LEN_LIMIT is the declared length. -/
def Obligations.LengthIsAccepted : Prop :=
  ∀ (s : State) (b : Byte), s.rxState = .receiving → s.lenValid = false → 1 ≤ b.toNat →
    b.toNat ≤ s.cfg.lenLimit.toNat →
    exec (.rxLenOk b) s = .next { s with declLen := b, lenValid := true, out := .nothing, label := .rx .lenOk }

/-- R124: a declared length of 0 completes the frame at once with INTEGRITY off, and enters the check phase with
it on (the spec's decision D6). -/
def Obligations.ZeroLengthEndsThePayload : Prop :=
  ∀ (s : State), s.rxState = .receiving → s.lenValid = false →
    (s.cfg.integrity = false → exec .rxLenZero s = .next { s with
      declLen := 0, lenValid := true, rxState := .completed, out := .nothing, label := .rx .done }) ∧
    (s.cfg.integrity = true → exec .rxLenZero s = .next { s with
      declLen := 0, lenValid := true, out := .nothing, label := .rx .lenOk })

/-- R125: a payload byte is stored at index `count` and counted; the last one completes the frame with INTEGRITY
off. Every other byte of the buffer and every other field is as before. -/
def Obligations.PayloadByteIsStoredAtCount : Prop :=
  ∀ (s : State) (b : Byte), s.rxState = .receiving → s.lenValid = true → s.count.val < s.declLen.toNat →
    s.declLen.toNat ≤ 62 →
    ∃ t, exec (.rxPayload b) s = .next t ∧ t.count.val = s.count.val + 1 ∧ memRead s.count.val t.buf = b ∧
      (∀ j, j ≠ s.count.val → memRead j t.buf = memRead j s.buf) ∧
      (s.count.val + 1 = s.declLen.toNat ∧ s.cfg.integrity = false →
        t = { s with buf := t.buf, count := t.count, rxState := .completed, out := .nothing, label := .rx .done }) ∧
      (¬(s.count.val + 1 = s.declLen.toNat ∧ s.cfg.integrity = false) →
        t = { s with buf := t.buf, count := t.count, out := .nothing, label := .rx .store })

/-- R126: outside a frame a byte changes nothing. -/
def Obligations.ByteOutsideAFrameIsDropped : Prop :=
  ∀ (s : State) (b : Byte), s.rxState = .idle ∨ s.rxState = .completed ∨ s.rxState = .error →
    exec (.rxDrop b) s = .next { s with out := .nothing, label := .rx .drop }

/-- R196: the first check byte is kept; the second, with the first as its low byte, is compared with CHECK_FN of
the local address, the declared length and the payload (the spec's decision D9; CHECK_FN is any function). -/
def Obligations.CheckBytesAreVerified : Prop :=
  ∀ (s : State) (b : Byte), s.rxState = .receiving → s.lenValid = true → s.count.val = s.declLen.toNat →
    s.declLen.toNat ≤ 62 → s.cfg.integrity = true →
    (s.ckCount = 0 → exec (.rxCheck b) s = .next { s with
      ckLo := b, ckCount := 1, out := .nothing, label := .rx .ckLo }) ∧
    (s.ckCount = 1 → b ++ s.ckLo = Config.checkFn s.cfg.checkSel s.cfg.localAddr s.declLen s.assembled →
      exec (.rxCheck b) s = .next { s with
        ckCount := 2, rxState := .completed, out := .nothing, label := .rx .done }) ∧
    (s.ckCount = 1 → b ++ s.ckLo ≠ Config.checkFn s.cfg.checkSel s.cfg.localAddr s.declLen s.assembled →
      exec (.rxCheck b) s = .next { s with
        ckCount := 2, rxState := .error, out := .nothing, label := .rx .ckFail })

/-- R121: ADD_TO_BUFFER is the case rule its control position selects. -/
def Obligations.AddToBufferDispatches : Prop :=
  ∀ (s : State) (b : Byte),
    (s.rxState ≠ .receiving → exec (.addToBuffer b) s = exec (.rxDrop b) s) ∧
    (s.rxState = .receiving → s.lenValid = false →
      (s.cfg.lenLimit.toNat < b.toNat → exec (.addToBuffer b) s = exec (.rxLenReject b) s) ∧
      (b = 0 → exec (.addToBuffer b) s = exec .rxLenZero s) ∧
      (b ≠ 0 → b.toNat ≤ s.cfg.lenLimit.toNat → exec (.addToBuffer b) s = exec (.rxLenOk b) s)) ∧
    (s.rxState = .receiving → s.lenValid = true →
      (s.count.val < s.declLen.toNat → exec (.addToBuffer b) s = exec (.rxPayload b) s) ∧
      (s.count.val = s.declLen.toNat → s.cfg.integrity = true →
        exec (.addToBuffer b) s = exec (.rxCheck b) s))

/-- The model's choice (log entries 12 and 13): a Receiver row run where R121 and R196 do not select it (the
control position, the byte or INTEGRITY is another's), DECODE_STORE without its precondition, and a byte where
R121 says no case is reachable, are refused by name. -/
def Obligations.InternalRowsNeedTheirPosition : Prop :=
  ∀ (s : State) (b : Byte),
    (s.rxState = .receiving → exec (.rxDrop b) s = .refused .notSelected) ∧
    ((s.rxState ≠ .receiving ∨ s.lenValid = true) →
      exec (.rxLenReject b) s = .refused .notSelected ∧ exec (.rxLenOk b) s = .refused .notSelected ∧
        exec .rxLenZero s = .refused .notSelected) ∧
    (b.toNat ≤ s.cfg.lenLimit.toNat → exec (.rxLenReject b) s = .refused .notSelected) ∧
    (b = 0 ∨ s.cfg.lenLimit.toNat < b.toNat → exec (.rxLenOk b) s = .refused .notSelected) ∧
    ((s.rxState ≠ .receiving ∨ s.lenValid = false ∨ s.declLen.toNat ≤ s.count.val) →
      exec (.rxPayload b) s = .refused .notSelected) ∧
    ((s.rxState ≠ .receiving ∨ s.lenValid = false ∨ s.count.val ≠ s.declLen.toNat ∨ s.cfg.integrity = false) →
      exec (.rxCheck b) s = .refused .notSelected) ∧
    (s.rxState = .receiving → s.lenValid = true → s.declLen.toNat ≤ s.count.val →
      (s.count.val ≠ s.declLen.toNat ∨ s.cfg.integrity = false) →
      exec (.addToBuffer b) s = .refused .noReceiverCase) ∧
    (s.rxState ≠ .completed → exec .decodeStore s = .refused .notSelected)

/-- R127: `data()` is `buf[0..decl_len)`, of length `decl_len`. Outside Completed and the check phase 93 I3 leaves
the value open, and that it is R127's list there too is the model's choice (log entry 14). -/
def Obligations.DataReadReturnsThePayload : Prop :=
  ∀ (s : State), s.declLen.toNat ≤ 62 →
    ∃ p : List Byte, exec .dataRead s = .next { s with out := .bytes p, label := .none } ∧
      p.length = s.declLen.toNat ∧ ∀ j, j < s.declLen.toNat → p[j]? = some (memRead j s.buf)

/-- R61: an index of 62 or more faults; it is neither wrapped nor clipped. -/
def Obligations.IndexBeyondTheBufferFaults : Prop :=
  ∀ (s : State) (b : Byte),
    (62 < s.declLen.toNat → exec .dataRead s = .fault (.bufIndex 62)) ∧
    (s.rxState = .receiving → s.lenValid = true → s.count.val < s.declLen.toNat → s.count.val = 62 →
      exec (.rxPayload b) s = .fault (.bufIndex 62))

/-- R128: after a length byte above LEN_LIMIT no word but START does anything: the Receiver stays in Error, the
buffer is not written and no message arrives. -/
def Obligations.RejectedLengthNeverCompletes : Prop :=
  ∀ (s : State) (b : Byte) (ws : List Symbol), s.rxState = .receiving → s.lenValid = false →
    s.cfg.lenLimit.toNat < b.toNat → (∀ w ∈ ws, notMatching s.cfg.localAddr w) →
    ∃ t, ingestAll (wordEncodeData b :: ws) s = .next t ∧
      t = { s with rxState := .error, out := .nothing, label := t.label }

/-- R61 and R35: whatever the instruction but RESET, the buffer is written only at index `count`, only by a payload
byte, and only below 62. Of RESET, after which R46 leaves the buffer unspecified, nothing is stated (log entry
9). -/
def Obligations.BufferIsWrittenOnlyAtCount : Prop :=
  ∀ (i : Instr) (s t : State), (∀ c, i ≠ .reset c) → exec i s = .next t →
    (∀ j, j ≠ s.count.val → memRead j t.buf = memRead j s.buf) ∧
    (t.buf = s.buf ∨ (s.rxState = .receiving ∧ s.lenValid = true ∧ s.count.val < s.declLen.toNat ∧
      s.count.val < 62 ∧ t.count.val = s.count.val + 1))

/-! ### The completion trigger and the mailbox (42_parser) -/

/-- R142: under `edge` the trigger fires when this word completed the frame, under `level` whenever the frame is
complete; it then is DECODE_STORE, and otherwise does nothing (the spec's decision D7). -/
def Obligations.TriggerFiresByItsSetting : Prop :=
  ∀ (s : State) (before : RxState),
    (s.cfg.decodeTrigger = .edge → s.rxState = .completed → before ≠ .completed →
      exec (.completionTrigger before) s = exec .decodeStore s) ∧
    (s.cfg.decodeTrigger = .edge → (s.rxState ≠ .completed ∨ before = .completed) →
      exec (.completionTrigger before) s = .next { s with out := .nothing, label := .dec .none }) ∧
    (s.cfg.decodeTrigger = .level → s.rxState = .completed →
      exec (.completionTrigger before) s = exec .decodeStore s) ∧
    (s.cfg.decodeTrigger = .level → s.rxState ≠ .completed →
      exec (.completionTrigger before) s = .next { s with out := .nothing, label := .dec .none })

/-- R143: the message of a completed frame overwrites the mailbox; a decode failure leaves it. The rest of the
state, the Receiver with it, is as before. -/
def Obligations.DecodeStoreFillsTheMailbox : Prop :=
  ∀ (s : State), s.rxState = .completed → s.declLen.toNat ≤ 62 →
    (∀ m, msgDecode s.cfg.excessPolicy s.assembled = .ok m →
      exec .decodeStore s = .next { s with mailbox := some m, out := .nothing, label := .dec (.stored (kindOf m)) }) ∧
    (∀ e, msgDecode s.cfg.excessPolicy s.assembled = .err e →
      exec .decodeStore s = .next { s with out := .nothing, label := .dec (.fail e) })

/-- R144 and R66: POLL returns the mailbox and clears it, and leaves the frame undisturbed; a second POLL returns
none. -/
def Obligations.PollTakesTheMailbox : Prop :=
  ∀ (s : State), ∃ t,
    exec .poll s = .next t ∧
    t = { s with mailbox := none, out := .taken s.mailbox, label := .take s.mailbox } ∧
    exec .poll t = .next { s with mailbox := none, out := .taken none, label := .take none }

/-- R37: the mailbox changes only by POLL, by RESET, or by the message of a completed frame. -/
def Obligations.MailboxHasThreeWriters : Prop :=
  ∀ (i : Instr) (s t : State), exec i s = .next t →
    t.mailbox = s.mailbox ∨ (i = .poll ∧ t.mailbox = none) ∨ (∃ c, i = .reset c ∧ t.mailbox = none) ∨
    (t.rxState = .completed ∧ ∃ m, t.mailbox = some m ∧ msgDecode t.cfg.excessPolicy t.assembled = .ok m)

/-- R248: under `level` a word after the completed frame stores its message again; under `edge` it does not. -/
def Obligations.LevelTriggerStoresAgain : Prop :=
  ∀ (s : State) (w : Symbol) (m : Message), s.rxState = .completed → s.declLen.toNat ≤ 62 →
    msgDecode s.cfg.excessPolicy s.assembled = .ok m → notMatching s.cfg.localAddr w →
    (s.cfg.decodeTrigger = .level → exec (.ingest w) s = .next { s with
      mailbox := some m, out := .nothing, label := .ingest .drop (.stored (kindOf m)) }) ∧
    (s.cfg.decodeTrigger = .edge → exec (.ingest w) s = .next { s with
      out := .nothing, label := .ingest .drop .none })

/-! ### The message decoder (43_message_codec) -/

/-- R161 with R166: eleven bytes make a Broadcast; fewer are Short, more are ignored or Excess. A payload has at
most 62 bytes (R160). The last clause goes beyond the rules: that the row runs on a longer payload too, writes no
state and has a free result, is the model's choice (log entry 23). -/
def Obligations.BroadcastIsDecoded : Prop :=
  ∀ (s : State),
    (∀ rest : List Byte, rest.length < 10 →
      exec (.decBroadcast rest) s = .next { s with out := .decoded (.err .short), label := .none }) ∧
    (∀ (b0 b1 b2 b3 b4 b5 b6 b7 b8 b9 : Byte) (extra : List Byte), extra.length + 11 ≤ 62 →
      exec (.decBroadcast (b0 :: b1 :: b2 :: b3 :: b4 :: b5 :: b6 :: b7 :: b8 :: b9 :: extra)) s = .next { s with
        out := .decoded (if extra ≠ [] ∧ s.cfg.excessPolicy = .reject then .err .excess
          else .ok (.broadcast #v[b0, b1, b2, b3, b4, b5, b6, b7, b8, b9])), label := .none }) ∧
    (∀ rest : List Byte, ∃ r, exec (.decBroadcast rest) s = .next { s with out := .decoded r, label := .none })

/-- R162 and R163 with R166: the signal-only kinds; more than one byte is ignored or Excess. A payload has at most
62 bytes (R160). The last two clauses go beyond the rules: that the rows run on a longer payload too, write no state
and have a free result, is the model's choice (log entry 23). -/
def Obligations.DiscoverySignalsAreDecoded : Prop :=
  ∀ (s : State) (rest : List Byte),
    (rest.length + 1 ≤ 62 →
      exec (.decDiscoveryRequest rest) s = .next { s with
        out := .decoded (if rest ≠ [] ∧ s.cfg.excessPolicy = .reject then .err .excess else .ok .discoveryRequest),
        label := .none } ∧
      exec (.decDiscoveryAck rest) s = .next { s with
        out := .decoded (if rest ≠ [] ∧ s.cfg.excessPolicy = .reject then .err .excess else .ok .discoveryAck),
        label := .none }) ∧
    (∃ r, exec (.decDiscoveryRequest rest) s = .next { s with out := .decoded r, label := .none }) ∧
    ∃ r, exec (.decDiscoveryAck rest) s = .next { s with out := .decoded r, label := .none }

/-- R164 and R165 with R166: the two kinds with a 32-bit little-endian value, all of whose bits are kept. A payload
has at most 62 bytes (R160). The last clause goes beyond the rules: that the rows run on a longer payload too, write
no state and have a free result, is the model's choice (log entry 23). -/
def Obligations.ValuesAreDecodedLittleEndian : Prop :=
  ∀ (s : State),
    (∀ rest : List Byte, rest.length < 4 →
      exec (.decUpdateRequest rest) s = .next { s with out := .decoded (.err .short), label := .none } ∧
      exec (.decSolenoidUpdate rest) s = .next { s with out := .decoded (.err .short), label := .none }) ∧
    (∀ (b0 b1 b2 b3 : Byte) (extra : List Byte), extra.length + 5 ≤ 62 →
      exec (.decUpdateRequest (b0 :: b1 :: b2 :: b3 :: extra)) s = .next { s with
        out := .decoded (if extra ≠ [] ∧ s.cfg.excessPolicy = .reject then .err .excess
          else .ok (.updateRequest (b3 ++ b2 ++ b1 ++ b0))), label := .none } ∧
      exec (.decSolenoidUpdate (b0 :: b1 :: b2 :: b3 :: extra)) s = .next { s with
        out := .decoded (if extra ≠ [] ∧ s.cfg.excessPolicy = .reject then .err .excess
          else .ok (.solenoidUpdate (b3 ++ b2 ++ b1 ++ b0))), label := .none }) ∧
    (∀ rest : List Byte,
      (∃ r, exec (.decUpdateRequest rest) s = .next { s with out := .decoded r, label := .none }) ∧
      ∃ r, exec (.decSolenoidUpdate rest) s = .next { s with out := .decoded r, label := .none })

/-- R167: the discriminants 05 to FF fail with Unrecognized, whatever the length, in their rows and in
MSG_DECODE; DECODE_STORE then leaves the mailbox unchanged. -/
def Obligations.UnknownDiscriminantsFail : Prop :=
  ∀ (s : State) (rest : List Byte) (x1 : BitVec 1) (x3 : BitVec 3) (x4 : BitVec 4) (x5 : BitVec 5)
    (x6 : BitVec 6) (x7 : BitVec 7) (i : Instr) (d : Byte), 5 ≤ d.toNat →
    (i ∈ [.decUnrecognized05 rest, .decUnrecognized06 x1 rest, .decUnrecognized08 x3 rest,
      .decUnrecognized10 x4 rest, .decUnrecognized20 x5 rest, .decUnrecognized40 x6 rest,
      .decUnrecognized80 x7 rest] →
      exec i s = .next { s with out := .decoded (.err .unrecognized), label := .none }) ∧
    exec (.msgDecode (d :: rest)) s = .next { s with out := .decoded (.err .unrecognized), label := .none } ∧
    (s.rxState = .completed → s.declLen.toNat ≤ 62 → s.assembled = d :: rest →
      exec .decodeStore s = .next { s with out := .nothing, label := .dec (.fail .unrecognized) })

/-- R168: an empty payload, and one shorter than its recognized kind's length, is Short (the spec's decision
D17). -/
def Obligations.TruncatedPayloadIsShort : Prop :=
  ∀ (s : State) (d : Byte) (rest : List Byte),
    exec .decEmpty s = .next { s with out := .decoded (.err .short), label := .none } ∧
    exec (.msgDecode []) s = .next { s with out := .decoded (.err .short), label := .none } ∧
    ((d = 0x00 ∧ rest.length + 1 < 11) ∨ ((d = 0x03 ∨ d = 0x04) ∧ rest.length + 1 < 5) →
      exec (.msgDecode (d :: rest)) s = .next { s with out := .decoded (.err .short), label := .none })

/-- R160: MSG_DECODE is the row of its discriminant; from 05 on it fails with Unrecognized before any length is
looked at. -/
def Obligations.MsgDecodeDispatches : Prop :=
  ∀ (s : State) (d : Byte) (rest : List Byte),
    exec (.msgDecode []) s = exec .decEmpty s ∧
    exec (.msgDecode (0x00 :: rest)) s = exec (.decBroadcast rest) s ∧
    exec (.msgDecode (0x01 :: rest)) s = exec (.decDiscoveryRequest rest) s ∧
    exec (.msgDecode (0x02 :: rest)) s = exec (.decDiscoveryAck rest) s ∧
    exec (.msgDecode (0x03 :: rest)) s = exec (.decUpdateRequest rest) s ∧
    exec (.msgDecode (0x04 :: rest)) s = exec (.decSolenoidUpdate rest) s ∧
    (5 ≤ d.toNat → exec (.msgDecode (d :: rest)) s = .next { s with
      out := .decoded (.err .unrecognized), label := .none })

/-- R160 over R167: MSG_DECODE does what the row its payload decodes to does, for every payload. -/
def Obligations.MsgDecodeIsTheDecodedRow : Prop :=
  ∀ (s : State) (p : List Byte), exec (.msgDecode p) s = exec (decodePayload p) s

/-- R166: CHECK_LEN, of a byte list of any length (the spec's decision D8). -/
def Obligations.CheckLenComparesTheLength : Prop :=
  ∀ (s : State) (p : List Byte) (n : Nat),
    (p.length < n → exec (.checkLen p n) s = .next { s with out := .lenChecked (.err .short), label := .none }) ∧
    (n < p.length → s.cfg.excessPolicy = .reject →
      exec (.checkLen p n) s = .next { s with out := .lenChecked (.err .excess), label := .none }) ∧
    (n = p.length ∨ (n < p.length ∧ s.cfg.excessPolicy = .ignore) →
      exec (.checkLen p n) s = .next { s with out := .lenChecked .ok, label := .none })

/-! ### The message encoder and the record (43_message_codec) -/

/-- R170 to R174: the bytes of each kind. -/
def Obligations.EncodersGiveTheLayout : Prop :=
  ∀ (s : State) (v : Value) (b0 b1 b2 b3 b4 b5 b6 b7 b8 b9 : Byte),
    exec (.encBroadcast #v[b0, b1, b2, b3, b4, b5, b6, b7, b8, b9]) s = .next { s with
      out := .bytes [0x00, b0, b1, b2, b3, b4, b5, b6, b7, b8, b9], label := .none } ∧
    exec .encDiscoveryRequest s = .next { s with out := .bytes [0x01], label := .none } ∧
    exec .encDiscoveryAck s = .next { s with out := .bytes [0x02], label := .none } ∧
    exec (.encUpdateRequest v) s = .next { s with
      out := .bytes [0x03, v.extractLsb' 0 8, v.extractLsb' 8 8, v.extractLsb' 16 8, v.extractLsb' 24 8],
      label := .none } ∧
    exec (.encSolenoidUpdate v) s = .next { s with
      out := .bytes [0x04, v.extractLsb' 0 8, v.extractLsb' 8 8, v.extractLsb' 16 8, v.extractLsb' 24 8],
      label := .none }

/-- R169: MSG_ENCODE is the row of its kind, and at most 11 bytes. -/
def Obligations.MsgEncodeDispatches : Prop :=
  ∀ (s : State) (b : Vector Byte 10) (v : Value),
    exec (.msgEncode (.broadcast b)) s = exec (.encBroadcast b) s ∧
    exec (.msgEncode .discoveryRequest) s = exec .encDiscoveryRequest s ∧
    exec (.msgEncode .discoveryAck) s = exec .encDiscoveryAck s ∧
    exec (.msgEncode (.updateRequest v)) s = exec (.encUpdateRequest v) s ∧
    exec (.msgEncode (.solenoidUpdate v)) s = exec (.encSolenoidUpdate v) s ∧
    ∀ m, ∃ p : List Byte, exec (.msgEncode m) s = .next { s with out := .bytes p, label := .none } ∧ p.length ≤ 11

/-- R177: every message decodes from its encoding, under both EXCESS_POLICY settings and for every value. -/
def Obligations.MessageRoundTrip : Prop :=
  ∀ (s : State) (m : Message), ∃ p : List Byte,
    exec (.msgEncode m) s = .next { s with out := .bytes p, label := .none } ∧
    exec (.msgDecode p) s = .next { s with out := .decoded (.ok m), label := .none }

/-- R176 and R175: SOLENOID places its fields and the accessors read them back; a wider argument is refused. -/
def Obligations.SolenoidFieldsRoundTrip : Prop :=
  ∀ (s : State) (x : Ctx) (inputs : BitVec 12) (outputs : BitVec 7) (reserved : BitVec 13) (i o r : Nat),
    (∃ v : Value, exec (.solenoid inputs outputs reserved) s = .next { s with out := .record v, label := .none } ∧
      v = reserved ++ outputs ++ inputs ∧
      solenoidInputs v = inputs ∧ solenoidOutputs v = outputs ∧ solenoidReserved v = reserved) ∧
    ((4096 ≤ i ∨ 128 ≤ o ∨ 8192 ≤ r) → decode x (.solenoid i o r) = .bad .solenoidFieldTooWide)

/-! ### The frame encoder (44_transport) -/

/-- R191 and R192: the two send-time errors, each exactly in its case, with their codes; FrameTooLong is checked
first (the spec's decisions D16 and D22). -/
def Obligations.SendErrorsAreReported : Prop :=
  ∀ (s : State) (a : Byte) (p : List Byte),
    (62 < p.length → exec (.txFrame a p) s = .next { s with
      out := .frame (.error .frameTooLong), label := .none }) ∧
    (p.length ≤ 62 → a = s.cfg.localAddr → s.cfg.loopback = false → exec (.txFrame a p) s = .next { s with
      out := .frame (.error .sendToSelf), label := .none }) ∧
    (p.length ≤ 62 → a ≠ s.cfg.localAddr ∨ s.cfg.loopback = true → ∃ ws : List Symbol,
      exec (.txFrame a p) s = .next { s with out := .frame (.words ws), label := .none }) ∧
    txCode (.error .frameTooLong) = 1 ∧ txCode (.error .sendToSelf) = 2

/-- R190, R193 and R194: the words of a frame. Only the first has the marker set; with INTEGRITY on the check
code follows, low byte first. -/
def Obligations.FrameWordsAreSent : Prop :=
  ∀ (s : State) (a : Byte) (p : List Byte), p.length ≤ 62 → (a ≠ s.cfg.localAddr ∨ s.cfg.loopback = true) →
    ∃ ws : List Symbol,
      exec (.txFrame a p) s = .next { s with out := .frame (.words ws), label := .none } ∧
      txCode (.words ws) = 0 ∧
      (s.cfg.integrity = false → ws =
        ((0b1#1 ++ a) :: (0b0#1 ++ BitVec.ofNat 8 p.length) :: p.map fun b => (0b0#1 ++ b : Symbol))) ∧
      (s.cfg.integrity = true →
        let c := Config.checkFn s.cfg.checkSel a (BitVec.ofNat 8 p.length) p
        ws = ((0b1#1 ++ a) :: (0b0#1 ++ BitVec.ofNat 8 p.length) :: p.map fun b => (0b0#1 ++ b : Symbol)) ++
          [0b0#1 ++ c.extractLsb' 0 8, 0b0#1 ++ c.extractLsb' 8 8]) ∧
      ws.length = p.length + (if s.cfg.integrity then 4 else 2)

/-- R195: TX_MESSAGE is TX_FRAME of the encoded message; it can fail only with SendToSelf. -/
def Obligations.TxMessageFailsOnlyToSelf : Prop :=
  ∀ (s : State) (a : Byte) (m : Message),
    exec (.txMessage a m) s = exec (.txFrame a (msgEncode m)) s ∧
    (a = s.cfg.localAddr → s.cfg.loopback = false → exec (.txMessage a m) s = .next { s with
      out := .frame (.error .sendToSelf), label := .none }) ∧
    ((a ≠ s.cfg.localAddr ∨ s.cfg.loopback = true) → ∃ ws : List Symbol,
      exec (.txMessage a m) s = .next { s with out := .frame (.words ws), label := .none })

/-- R198: a frame sent with the receiver's INTEGRITY and CHECK_FN, ingested in any state of a receiver it is
addressed to, ends in Completed with `data()` the payload; its last word fires the trigger. -/
def Obligations.FrameRoundTrip : Prop :=
  ∀ (r s : State) (p : List Byte) (ws : List Symbol),
    exec (.txFrame s.cfg.localAddr p) r = .next { r with out := .frame (.words ws), label := .none } →
    r.cfg.integrity = s.cfg.integrity → r.cfg.checkSel = s.cfg.checkSel →
    p.length ≤ s.cfg.lenLimit.toNat →
    ∃ t, ingestAll ws s = .next t ∧ t.rxState = .completed ∧
      exec .dataRead t = .next { t with out := .bytes p, label := .none } ∧
      ∃ d, d ≠ .none ∧ t.label = .ingest .done d

/-- R200: a message sent over a frame arrives in the receiver's mailbox. -/
def Obligations.MessageArrivesOverAFrame : Prop :=
  ∀ (r s : State) (m : Message) (ws : List Symbol),
    exec (.txMessage s.cfg.localAddr m) r = .next { r with out := .frame (.words ws), label := .none } →
    r.cfg.integrity = s.cfg.integrity → r.cfg.checkSel = s.cfg.checkSel →
    kindLength (kindOf m) ≤ s.cfg.lenLimit.toNat →
    ∃ t, ingestAll ws s = .next t ∧ t.mailbox = some m ∧ t.label = .ingest .done (.stored (kindOf m))

/-- R145: of two messages that arrive before a POLL, POLL returns the later and the earlier is lost. -/
def Obligations.LaterMessageOverwrites : Prop :=
  ∀ (r s : State) (m₁ m₂ : Message) (ws₁ ws₂ : List Symbol),
    exec (.txMessage s.cfg.localAddr m₁) r = .next { r with out := .frame (.words ws₁), label := .none } →
    exec (.txMessage s.cfg.localAddr m₂) r = .next { r with out := .frame (.words ws₂), label := .none } →
    r.cfg.integrity = s.cfg.integrity → r.cfg.checkSel = s.cfg.checkSel →
    kindLength (kindOf m₁) ≤ s.cfg.lenLimit.toNat → kindLength (kindOf m₂) ≤ s.cfg.lenLimit.toNat →
    ∃ t u, ingestAll (ws₁ ++ ws₂) s = .next t ∧ exec .poll t = .next u ∧ u.out = .taken (some m₂) ∧ u.mailbox = none

/-- R253: a frame sent with INTEGRITY on still delivers its message to a receiver that has it off, which drops
the two check bytes. -/
def Obligations.CheckBytesAreDroppedWhenOff : Prop :=
  ∀ (r s : State) (m : Message) (ws : List Symbol),
    exec (.txMessage s.cfg.localAddr m) r = .next { r with out := .frame (.words ws), label := .none } →
    r.cfg.integrity = true → s.cfg.integrity = false →
    kindLength (kindOf m) ≤ s.cfg.lenLimit.toNat →
    ∃ t, ingestAll ws s = .next t ∧ t.mailbox = some m ∧ t.rxState = .completed ∧ ∃ d, t.label = .ingest .drop d

/-! ### Reset (70_reset) -/

/-- R240: RESET sets every field but `buf` and `ckLo`, of which nothing is said (they are unspecified after
RESET), and samples the configuration. -/
def Obligations.ResetRestoresTheFields : Prop :=
  ∀ (s : State) (c : Cfg), c.wf = true →
    ∃ t, exec (.reset c) s = .next t ∧
      t = { s with rxState := .idle, lenValid := false, declLen := 0, count := 0, ckCount := 0, mailbox := none,
                   cfg := c, out := .nothing, label := .reset, buf := t.buf, ckLo := t.ckLo }

/-- 93 I21: RESET is refused in master role with a local address other than MASTER_ADDRESS. The other two clauses
hold the model's choices: that RESET with LEN_LIMIT 63, which R41 does not list as legal, is refused (log entry 20),
and that a slave's RESET runs at MASTER_ADDRESS too, which R242 asks the host to avoid (log entry 28). The names of
both refusals are log entry 20's. -/
def Obligations.ResetNeedsALegalConfiguration : Prop :=
  ∀ (s : State) (c : Cfg),
    (62 < c.lenLimit.toNat → exec (.reset c) s = .refused (.badRequest .lenLimitTooLarge)) ∧
    (c.lenLimit.toNat ≤ 62 → c.role = .master → c.localAddr ≠ c.masterAddress →
      exec (.reset c) s = .refused (.badRequest .bootAddress)) ∧
    (c.lenLimit.toNat ≤ 62 → c.role = .slave → ∃ t, exec (.reset c) s = .next t ∧ t.cfg = c)

/-- R46: the values after reset (the spec's decision D13). Of `buf` and `ckLo`, which R46 leaves unspecified, and
of the power-on configuration, which is the model's choice (log entry 6), nothing is stated. -/
def Obligations.StateAfterReset : Prop :=
  State.reset.rxState = .idle ∧ State.reset.lenValid = false ∧ State.reset.declLen = 0 ∧ State.reset.count = 0 ∧
  State.reset.ckCount = 0 ∧ State.reset.mailbox = none ∧ State.reset.statusPort = 0

/-! ### Ports -/

/-- R42 and R43: the status port, which no request writes, and the mailbox output port while it is valid (the
spec's decisions D14, D15 and D29). -/
def Obligations.PortsShowTheState : Prop :=
  ∀ (s : State),
    (s.statusPort.toNat = (match s.rxState with | .idle => 0 | .receiving => 1 | .completed => 2 | .error => 3) +
      (if s.mailbox = none then 0 else 4)) ∧
    (∀ v, decode s.ctx (.statusWrite v) = .bad .statusPortReadOnly) ∧
    (s.mailbox = some .discoveryRequest → s.mboxPort = some (1, 0)) ∧
    (s.mailbox = some .discoveryAck → s.mboxPort = some (2, 0)) ∧
    (∀ v, s.mailbox = some (.updateRequest v) → s.mboxPort = some (3, v.setWidth 80)) ∧
    (∀ v, s.mailbox = some (.solenoidUpdate v) → s.mboxPort = some (4, v.setWidth 80)) ∧
    (∀ b, s.mailbox = some (.broadcast b) → ∃ y, s.mboxPort = some (0, y) ∧
      ∀ k (h : k < 10), y.extractLsb' (8 * k) 8 = b[k])

/-! ### Decoding and stepping -/

/-- A few words written out from 30_encoding R80, R85 and the opcode table, and the instruction each stands for. -/
def Obligations.WordsDecodeToTheirRows : Prop :=
  decode Ctx.atReset (.word9 0b100000010) = .ok (.start 0x02) ∧
  decode Ctx.atReset (.word9 0b100000011) = .ok (.foreignAddr 0x03) ∧
  decode Ctx.atReset (.word9 0b011111111) = .ok (.data 0xFF) ∧
  decode Ctx.atReset (.word9 0b1000000000) = .bad .wordTooWide ∧
  decode Ctx.atReset (.rxByte 0b01010101) = .ok (.rxDrop 0x55) ∧
  decode Ctx.atReset (.disc8 [0b00000011, 0x78, 0x56, 0x34, 0x12]) = .ok (.decUpdateRequest [0x78, 0x56, 0x34, 0x12]) ∧
  decode Ctx.atReset (.disc8 [0b00000111]) = .ok (.decUnrecognized06 1 []) ∧
  decode Ctx.atReset (.disc8 [0b10000001]) = .ok (.decUnrecognized80 1 []) ∧
  decode Ctx.atReset (.msgEnc [0b00000100, 0xFF, 0x0F, 0x00, 0x00]) = .ok (.encSolenoidUpdate 0x00000FFF)

/-- Every well-formed instruction, encoded, decodes to itself in its context, with every operand at every value. -/
def Obligations.DecodeOfEncode : Prop :=
  ∀ (x : Ctx) (i : Instr), i.wf x = true → decode x (encode i) = .ok i

/-- What a request decodes to is well formed, and its encoding is that request: no bit is dropped, and each
request has one meaning. -/
def Obligations.EncodeOfDecode : Prop :=
  ∀ (x : Ctx) (q : Request) (i : Instr), decode x q = .ok i → i.wf x = true ∧ encode i = q

/-- A step takes the next request, decodes it in the current context, and is exec of the instruction; a request
that is no instruction is refused by the decoder's name. -/
def Obligations.StepRunsTheDecodedInstruction : Prop :=
  ∀ (s t : State) (q : Request), fetch s = some (q, t) →
    (∀ i, decode t.ctx q = .ok i → step s = exec i t) ∧
    (∀ e, decode t.ctx q = .bad e → step s = .refused (.badRequest e))

/-- R215 and R69: of requests presented at once one is taken, whichever, and the others stay in order; a request
presented alone is taken; with none the state stays (log entry 2). Nothing but the input is touched. -/
def Obligations.RequestsAreSerialised : Prop :=
  ∀ (s : State) (q q' : Request) (more : List Request) (rest : List (List Request)),
    (s.pending = [q] :: rest → fetch s = some (q, { s with pending := rest })) ∧
    (s.pending = (q :: q' :: more) :: rest → ∃ k x, (q :: q' :: more)[k]? = some x ∧
      fetch s = some (x, { s with pending := (q :: q' :: more).eraseIdx k :: rest, draws := s.draws + 1 })) ∧
    (s.pending = [] → step s = .next s)

/-! ### The whole machine -/

/-- R38 at reset. -/
def Obligations.InvariantAtReset : Prop := Inv State.reset

/-- R38: every step, from every state with the invariant, keeps it. -/
def Obligations.StepKeepsTheInvariant : Prop :=
  ∀ (s t : State), Inv s → step s = .next t → Inv t

/-- R210: the block never traps. In every state with the invariant every well-formed operation has a next state
(DECODE_STORE where its precondition, a complete frame, holds). That the decoders run on more than 62 bytes, and
RESET for a slave at MASTER_ADDRESS, is the model's choice (log entries 23 and 28). -/
def Obligations.EveryOperationCompletes : Prop :=
  ∀ (s : State) (i : Instr), Inv s → i.wf s.ctx = true → (i = .decodeStore → s.rxState = .completed) →
    ∃ t, exec i s = .next t

/-- R46 and R38, invariants 4 and 5: no observation depends on a buffer byte that was not written since START, nor
on the check byte before it is taken. Two states that differ only there step alike, with the same value
returned and the same label, under every operation but `data()` called outside the rules (93 I3). -/
def Obligations.StaleBytesAreNeverSeen : Prop :=
  ∀ (s t s' : State) (i : Instr), Inv s → Inv t → SameButStale s t → i ≠ .dataRead → exec i s = .next s' →
    ∃ t', exec i t = .next t' ∧ SameButStale s' t'

/-- R243: no operation but RESET changes the configuration (the spec's decision D12), and a request to change it
at any other time is refused; no operation consumes or adds a request. -/
def Obligations.OnlyResetChangesTheConfiguration : Prop :=
  ∀ (i : Instr) (s t : State) (c : Cfg), exec i s = .next t →
    t.pending = s.pending ∧ t.draws = s.draws ∧ (t.cfg = s.cfg ∨ i = .reset t.cfg) ∧
    decode s.ctx (.configChange c) = .bad .configChangeOutsideReset

/-- R217 and R212: Error and Completed are left only by START and by RESET. -/
def Obligations.ErrorIsLeftByStartOrReset : Prop :=
  ∀ (i : Instr) (s t : State), exec i s = .next t → s.rxState = .error ∨ s.rxState = .completed →
    t.rxState = s.rxState ∨
    (t.rxState = .receiving ∧ (i = .start s.cfg.localAddr ∨ i = .ingest (wordEncodeAddr s.cfg.localAddr))) ∨
    (t.rxState = .idle ∧ ∃ c, i = .reset c)
end

