-- ==== Sys2Proof/Laws/State.lean ====
section
/-! SUPPORT. One lemma per field per update of the state, so that no later proof unfolds a record update. -/

namespace Sys2Proof.Machine

variable (s : State)

/-! ### `State.finish` -/

@[simp] theorem State.finish_rxState (o : Output) (l : Label) : (s.finish o l).rxState = s.rxState := rfl
@[simp] theorem State.finish_lenValid (o : Output) (l : Label) : (s.finish o l).lenValid = s.lenValid := rfl
@[simp] theorem State.finish_declLen (o : Output) (l : Label) : (s.finish o l).declLen = s.declLen := rfl
@[simp] theorem State.finish_count (o : Output) (l : Label) : (s.finish o l).count = s.count := rfl
@[simp] theorem State.finish_buf (o : Output) (l : Label) : (s.finish o l).buf = s.buf := rfl
@[simp] theorem State.finish_ckCount (o : Output) (l : Label) : (s.finish o l).ckCount = s.ckCount := rfl
@[simp] theorem State.finish_ckLo (o : Output) (l : Label) : (s.finish o l).ckLo = s.ckLo := rfl
@[simp] theorem State.finish_mailbox (o : Output) (l : Label) : (s.finish o l).mailbox = s.mailbox := rfl
@[simp] theorem State.finish_cfg (o : Output) (l : Label) : (s.finish o l).cfg = s.cfg := rfl
@[simp] theorem State.finish_out (o : Output) (l : Label) : (s.finish o l).out = o := rfl
@[simp] theorem State.finish_label (o : Output) (l : Label) : (s.finish o l).label = l := rfl
@[simp] theorem State.finish_pending (o : Output) (l : Label) : (s.finish o l).pending = s.pending := rfl
@[simp] theorem State.finish_draws (o : Output) (l : Label) : (s.finish o l).draws = s.draws := rfl

/-! ### `State.beginFrame` -/

@[simp] theorem State.beginFrame_rxState : (s.beginFrame).rxState = .receiving := rfl
@[simp] theorem State.beginFrame_lenValid : (s.beginFrame).lenValid = false := rfl
@[simp] theorem State.beginFrame_declLen : (s.beginFrame).declLen = 0 := rfl
@[simp] theorem State.beginFrame_count : (s.beginFrame).count = 0 := rfl
@[simp] theorem State.beginFrame_buf : (s.beginFrame).buf = s.buf := rfl
@[simp] theorem State.beginFrame_ckCount : (s.beginFrame).ckCount = 0 := rfl
@[simp] theorem State.beginFrame_ckLo : (s.beginFrame).ckLo = s.ckLo := rfl
@[simp] theorem State.beginFrame_mailbox : (s.beginFrame).mailbox = s.mailbox := rfl
@[simp] theorem State.beginFrame_cfg : (s.beginFrame).cfg = s.cfg := rfl
@[simp] theorem State.beginFrame_out : (s.beginFrame).out = s.out := rfl
@[simp] theorem State.beginFrame_label : (s.beginFrame).label = s.label := rfl
@[simp] theorem State.beginFrame_pending : (s.beginFrame).pending = s.pending := rfl
@[simp] theorem State.beginFrame_draws : (s.beginFrame).draws = s.draws := rfl

/-! ### `State.enterError` -/

@[simp] theorem State.enterError_rxState : (s.enterError).rxState = .error := rfl
@[simp] theorem State.enterError_lenValid : (s.enterError).lenValid = s.lenValid := rfl
@[simp] theorem State.enterError_declLen : (s.enterError).declLen = s.declLen := rfl
@[simp] theorem State.enterError_count : (s.enterError).count = s.count := rfl
@[simp] theorem State.enterError_buf : (s.enterError).buf = s.buf := rfl
@[simp] theorem State.enterError_ckCount : (s.enterError).ckCount = s.ckCount := rfl
@[simp] theorem State.enterError_ckLo : (s.enterError).ckLo = s.ckLo := rfl
@[simp] theorem State.enterError_mailbox : (s.enterError).mailbox = s.mailbox := rfl
@[simp] theorem State.enterError_cfg : (s.enterError).cfg = s.cfg := rfl
@[simp] theorem State.enterError_out : (s.enterError).out = s.out := rfl
@[simp] theorem State.enterError_label : (s.enterError).label = s.label := rfl
@[simp] theorem State.enterError_pending : (s.enterError).pending = s.pending := rfl
@[simp] theorem State.enterError_draws : (s.enterError).draws = s.draws := rfl

/-! ### `State.complete` -/

@[simp] theorem State.complete_rxState : (s.complete).rxState = .completed := rfl
@[simp] theorem State.complete_lenValid : (s.complete).lenValid = s.lenValid := rfl
@[simp] theorem State.complete_declLen : (s.complete).declLen = s.declLen := rfl
@[simp] theorem State.complete_count : (s.complete).count = s.count := rfl
@[simp] theorem State.complete_buf : (s.complete).buf = s.buf := rfl
@[simp] theorem State.complete_ckCount : (s.complete).ckCount = s.ckCount := rfl
@[simp] theorem State.complete_ckLo : (s.complete).ckLo = s.ckLo := rfl
@[simp] theorem State.complete_mailbox : (s.complete).mailbox = s.mailbox := rfl
@[simp] theorem State.complete_cfg : (s.complete).cfg = s.cfg := rfl
@[simp] theorem State.complete_out : (s.complete).out = s.out := rfl
@[simp] theorem State.complete_label : (s.complete).label = s.label := rfl
@[simp] theorem State.complete_pending : (s.complete).pending = s.pending := rfl
@[simp] theorem State.complete_draws : (s.complete).draws = s.draws := rfl

/-! ### `State.acceptLength` -/

@[simp] theorem State.acceptLength_rxState (b : Byte) : (s.acceptLength b).rxState = s.rxState := rfl
@[simp] theorem State.acceptLength_lenValid (b : Byte) : (s.acceptLength b).lenValid = true := rfl
@[simp] theorem State.acceptLength_declLen (b : Byte) : (s.acceptLength b).declLen = b := rfl
@[simp] theorem State.acceptLength_count (b : Byte) : (s.acceptLength b).count = s.count := rfl
@[simp] theorem State.acceptLength_buf (b : Byte) : (s.acceptLength b).buf = s.buf := rfl
@[simp] theorem State.acceptLength_ckCount (b : Byte) : (s.acceptLength b).ckCount = s.ckCount := rfl
@[simp] theorem State.acceptLength_ckLo (b : Byte) : (s.acceptLength b).ckLo = s.ckLo := rfl
@[simp] theorem State.acceptLength_mailbox (b : Byte) : (s.acceptLength b).mailbox = s.mailbox := rfl
@[simp] theorem State.acceptLength_cfg (b : Byte) : (s.acceptLength b).cfg = s.cfg := rfl
@[simp] theorem State.acceptLength_out (b : Byte) : (s.acceptLength b).out = s.out := rfl
@[simp] theorem State.acceptLength_label (b : Byte) : (s.acceptLength b).label = s.label := rfl
@[simp] theorem State.acceptLength_pending (b : Byte) : (s.acceptLength b).pending = s.pending := rfl
@[simp] theorem State.acceptLength_draws (b : Byte) : (s.acceptLength b).draws = s.draws := rfl

/-! ### `State.stored` -/

@[simp] theorem State.stored_rxState (m : Mem) : (s.stored m).rxState = s.rxState := rfl
@[simp] theorem State.stored_lenValid (m : Mem) : (s.stored m).lenValid = s.lenValid := rfl
@[simp] theorem State.stored_declLen (m : Mem) : (s.stored m).declLen = s.declLen := rfl
@[simp] theorem State.stored_count (m : Mem) : (s.stored m).count = Fin.ofNat 63 (s.count.val + 1) := rfl
@[simp] theorem State.stored_buf (m : Mem) : (s.stored m).buf = m := rfl
@[simp] theorem State.stored_ckCount (m : Mem) : (s.stored m).ckCount = s.ckCount := rfl
@[simp] theorem State.stored_ckLo (m : Mem) : (s.stored m).ckLo = s.ckLo := rfl
@[simp] theorem State.stored_mailbox (m : Mem) : (s.stored m).mailbox = s.mailbox := rfl
@[simp] theorem State.stored_cfg (m : Mem) : (s.stored m).cfg = s.cfg := rfl
@[simp] theorem State.stored_out (m : Mem) : (s.stored m).out = s.out := rfl
@[simp] theorem State.stored_label (m : Mem) : (s.stored m).label = s.label := rfl
@[simp] theorem State.stored_pending (m : Mem) : (s.stored m).pending = s.pending := rfl
@[simp] theorem State.stored_draws (m : Mem) : (s.stored m).draws = s.draws := rfl

/-! ### `State.checkLow` -/

@[simp] theorem State.checkLow_rxState (b : Byte) : (s.checkLow b).rxState = s.rxState := rfl
@[simp] theorem State.checkLow_lenValid (b : Byte) : (s.checkLow b).lenValid = s.lenValid := rfl
@[simp] theorem State.checkLow_declLen (b : Byte) : (s.checkLow b).declLen = s.declLen := rfl
@[simp] theorem State.checkLow_count (b : Byte) : (s.checkLow b).count = s.count := rfl
@[simp] theorem State.checkLow_buf (b : Byte) : (s.checkLow b).buf = s.buf := rfl
@[simp] theorem State.checkLow_ckCount (b : Byte) : (s.checkLow b).ckCount = 1 := rfl
@[simp] theorem State.checkLow_ckLo (b : Byte) : (s.checkLow b).ckLo = b := rfl
@[simp] theorem State.checkLow_mailbox (b : Byte) : (s.checkLow b).mailbox = s.mailbox := rfl
@[simp] theorem State.checkLow_cfg (b : Byte) : (s.checkLow b).cfg = s.cfg := rfl
@[simp] theorem State.checkLow_out (b : Byte) : (s.checkLow b).out = s.out := rfl
@[simp] theorem State.checkLow_label (b : Byte) : (s.checkLow b).label = s.label := rfl
@[simp] theorem State.checkLow_pending (b : Byte) : (s.checkLow b).pending = s.pending := rfl
@[simp] theorem State.checkLow_draws (b : Byte) : (s.checkLow b).draws = s.draws := rfl

/-! ### `State.checkTaken` -/

@[simp] theorem State.checkTaken_rxState : (s.checkTaken).rxState = s.rxState := rfl
@[simp] theorem State.checkTaken_lenValid : (s.checkTaken).lenValid = s.lenValid := rfl
@[simp] theorem State.checkTaken_declLen : (s.checkTaken).declLen = s.declLen := rfl
@[simp] theorem State.checkTaken_count : (s.checkTaken).count = s.count := rfl
@[simp] theorem State.checkTaken_buf : (s.checkTaken).buf = s.buf := rfl
@[simp] theorem State.checkTaken_ckCount : (s.checkTaken).ckCount = 2 := rfl
@[simp] theorem State.checkTaken_ckLo : (s.checkTaken).ckLo = s.ckLo := rfl
@[simp] theorem State.checkTaken_mailbox : (s.checkTaken).mailbox = s.mailbox := rfl
@[simp] theorem State.checkTaken_cfg : (s.checkTaken).cfg = s.cfg := rfl
@[simp] theorem State.checkTaken_out : (s.checkTaken).out = s.out := rfl
@[simp] theorem State.checkTaken_label : (s.checkTaken).label = s.label := rfl
@[simp] theorem State.checkTaken_pending : (s.checkTaken).pending = s.pending := rfl
@[simp] theorem State.checkTaken_draws : (s.checkTaken).draws = s.draws := rfl

/-! ### `State.setMailbox` -/

@[simp] theorem State.setMailbox_rxState (m : Option Message) : (s.setMailbox m).rxState = s.rxState := rfl
@[simp] theorem State.setMailbox_lenValid (m : Option Message) : (s.setMailbox m).lenValid = s.lenValid := rfl
@[simp] theorem State.setMailbox_declLen (m : Option Message) : (s.setMailbox m).declLen = s.declLen := rfl
@[simp] theorem State.setMailbox_count (m : Option Message) : (s.setMailbox m).count = s.count := rfl
@[simp] theorem State.setMailbox_buf (m : Option Message) : (s.setMailbox m).buf = s.buf := rfl
@[simp] theorem State.setMailbox_ckCount (m : Option Message) : (s.setMailbox m).ckCount = s.ckCount := rfl
@[simp] theorem State.setMailbox_ckLo (m : Option Message) : (s.setMailbox m).ckLo = s.ckLo := rfl
@[simp] theorem State.setMailbox_mailbox (m : Option Message) : (s.setMailbox m).mailbox = m := rfl
@[simp] theorem State.setMailbox_cfg (m : Option Message) : (s.setMailbox m).cfg = s.cfg := rfl
@[simp] theorem State.setMailbox_out (m : Option Message) : (s.setMailbox m).out = s.out := rfl
@[simp] theorem State.setMailbox_label (m : Option Message) : (s.setMailbox m).label = s.label := rfl
@[simp] theorem State.setMailbox_pending (m : Option Message) : (s.setMailbox m).pending = s.pending := rfl
@[simp] theorem State.setMailbox_draws (m : Option Message) : (s.setMailbox m).draws = s.draws := rfl

/-! ### `State.restart` -/

@[simp] theorem State.restart_rxState (c : Cfg) : (s.restart c).rxState = .idle := rfl
@[simp] theorem State.restart_lenValid (c : Cfg) : (s.restart c).lenValid = false := rfl
@[simp] theorem State.restart_declLen (c : Cfg) : (s.restart c).declLen = 0 := rfl
@[simp] theorem State.restart_count (c : Cfg) : (s.restart c).count = 0 := rfl
@[simp] theorem State.restart_buf (c : Cfg) : (s.restart c).buf = s.buf := rfl
@[simp] theorem State.restart_ckCount (c : Cfg) : (s.restart c).ckCount = 0 := rfl
@[simp] theorem State.restart_ckLo (c : Cfg) : (s.restart c).ckLo = s.ckLo := rfl
@[simp] theorem State.restart_mailbox (c : Cfg) : (s.restart c).mailbox = none := rfl
@[simp] theorem State.restart_cfg (c : Cfg) : (s.restart c).cfg = c := rfl
@[simp] theorem State.restart_out (c : Cfg) : (s.restart c).out = s.out := rfl
@[simp] theorem State.restart_label (c : Cfg) : (s.restart c).label = s.label := rfl
@[simp] theorem State.restart_pending (c : Cfg) : (s.restart c).pending = s.pending := rfl
@[simp] theorem State.restart_draws (c : Cfg) : (s.restart c).draws = s.draws := rfl

/-! ### `State.setPending` -/

@[simp] theorem State.setPending_rxState (ps : List (List Request)) (n : Nat) : (s.setPending ps n).rxState = s.rxState := rfl
@[simp] theorem State.setPending_lenValid (ps : List (List Request)) (n : Nat) : (s.setPending ps n).lenValid = s.lenValid := rfl
@[simp] theorem State.setPending_declLen (ps : List (List Request)) (n : Nat) : (s.setPending ps n).declLen = s.declLen := rfl
@[simp] theorem State.setPending_count (ps : List (List Request)) (n : Nat) : (s.setPending ps n).count = s.count := rfl
@[simp] theorem State.setPending_buf (ps : List (List Request)) (n : Nat) : (s.setPending ps n).buf = s.buf := rfl
@[simp] theorem State.setPending_ckCount (ps : List (List Request)) (n : Nat) : (s.setPending ps n).ckCount = s.ckCount := rfl
@[simp] theorem State.setPending_ckLo (ps : List (List Request)) (n : Nat) : (s.setPending ps n).ckLo = s.ckLo := rfl
@[simp] theorem State.setPending_mailbox (ps : List (List Request)) (n : Nat) : (s.setPending ps n).mailbox = s.mailbox := rfl
@[simp] theorem State.setPending_cfg (ps : List (List Request)) (n : Nat) : (s.setPending ps n).cfg = s.cfg := rfl
@[simp] theorem State.setPending_out (ps : List (List Request)) (n : Nat) : (s.setPending ps n).out = s.out := rfl
@[simp] theorem State.setPending_label (ps : List (List Request)) (n : Nat) : (s.setPending ps n).label = s.label := rfl
@[simp] theorem State.setPending_pending (ps : List (List Request)) (n : Nat) : (s.setPending ps n).pending = ps := rfl
@[simp] theorem State.setPending_draws (ps : List (List Request)) (n : Nat) : (s.setPending ps n).draws = n := rfl

/-! ### The context and the table word -/

@[simp] theorem State.ctx_cfg : s.ctx.cfg = s.cfg := rfl
@[simp] theorem State.ctx_rxState : s.ctx.rxState = s.rxState := rfl
@[simp] theorem State.ctx_lenValid : s.ctx.lenValid = s.lenValid := rfl
@[simp] theorem State.ctx_declLen : s.ctx.declLen = s.declLen := rfl
@[simp] theorem State.ctx_count : s.ctx.count = s.count := rfl

@[simp] theorem State.withFetchWord_rxState (nbits w : Nat) : (s.withFetchWord nbits w).rxState = s.rxState := rfl
@[simp] theorem State.withFetchWord_lenValid (nbits w : Nat) : (s.withFetchWord nbits w).lenValid = s.lenValid := rfl
@[simp] theorem State.withFetchWord_declLen (nbits w : Nat) : (s.withFetchWord nbits w).declLen = s.declLen := rfl
@[simp] theorem State.withFetchWord_count (nbits w : Nat) : (s.withFetchWord nbits w).count = s.count := rfl
@[simp] theorem State.withFetchWord_buf (nbits w : Nat) : (s.withFetchWord nbits w).buf = s.buf := rfl
@[simp] theorem State.withFetchWord_ckCount (nbits w : Nat) : (s.withFetchWord nbits w).ckCount = s.ckCount := rfl
@[simp] theorem State.withFetchWord_ckLo (nbits w : Nat) : (s.withFetchWord nbits w).ckLo = s.ckLo := rfl
@[simp] theorem State.withFetchWord_mailbox (nbits w : Nat) : (s.withFetchWord nbits w).mailbox = s.mailbox := rfl
@[simp] theorem State.withFetchWord_cfg (nbits w : Nat) : (s.withFetchWord nbits w).cfg = s.cfg := rfl
@[simp] theorem State.withFetchWord_out (nbits w : Nat) : (s.withFetchWord nbits w).out = s.out := rfl
@[simp] theorem State.withFetchWord_label (nbits w : Nat) : (s.withFetchWord nbits w).label = s.label := rfl
@[simp] theorem State.withFetchWord_pending (nbits w : Nat) : (s.withFetchWord nbits w).pending = [tableRequest nbits w] :: s.pending := rfl
@[simp] theorem State.withFetchWord_draws (nbits w : Nat) : (s.withFetchWord nbits w).draws = s.draws := rfl

/-- The decoder's context right after reset is the one `decodeTableWord` uses. -/
theorem State.reset_ctx : State.reset.ctx = Ctx.atReset := rfl

end Sys2Proof.Machine
end

