-- ==== Sys2Proof/Laws/Memory.lean ====
section
/-! SUPPORT. The laws of the Receiver buffer: read after write, and the canonical form kept. -/

namespace Sys2Proof.Machine

/-! ### Read after write -/

@[simp] theorem memRead_nil (i : Nat) : memRead i [] = blankByte := rfl

theorem memRead_cons (i j : Nat) (b : Byte) (m : Mem) :
    memRead i ((j, b) :: m) = if j = i then b else memRead i m := rfl

theorem memErase_cons (i j : Nat) (b : Byte) (m : Mem) :
    memErase i ((j, b) :: m) = if j = i then memErase i m else (j, b) :: memErase i m := by
  by_cases h : j = i <;> simp [memErase, h]

theorem memRead_memErase (i j : Nat) (m : Mem) :
    memRead j (memErase i m) = if j = i then blankByte else memRead j m := by
  induction m with
  | nil => simp [memErase]
  | cons c m ih =>
    obtain ⟨k, b⟩ := c
    rw [memErase_cons, memRead_cons]
    split <;> rename_i hk
    · rw [ih]; subst hk
      by_cases hj : j = k
      · simp [hj]
      · simp [hj, Ne.symm hj]
    · rw [memRead_cons, ih]; split <;> simp_all

theorem memRead_memInsert (i j : Nat) (b : Byte) (m : Mem) (h : memRead i m = blankByte) (hm : ∀ c ∈ m, c.1 ≠ i) :
    memRead j (memInsert i b m) = if j = i then b else memRead j m := by
  induction m with
  | nil => simp [memInsert, memRead_cons, eq_comm]
  | cons c m ih =>
    obtain ⟨k, x⟩ := c
    have hk : k ≠ i := hm (k, x) (by simp)
    unfold memInsert
    split
    · simp [memRead_cons, eq_comm]
    · rw [memRead_cons, memRead_cons, ih (by simpa [memRead_cons, hk] using h) (fun c hc => hm c (by simp [hc]))]
      split
      · subst_vars; simp [hk]
      · rfl

/-- Read after write, at the same index and at any other. -/
theorem memRead_memWrite (i j : Nat) (b : Byte) (m : Mem) :
    memRead j (memWrite i b m) = if j = i then b else memRead j m := by
  unfold memWrite
  split
  · rw [memRead_memErase]; simp_all
  · rw [memRead_memInsert _ _ _ _ (by simp [memRead_memErase]) (by simp [memErase]), memRead_memErase]
    split <;> simp_all

@[simp] theorem memRead_memWrite_same (i : Nat) (b : Byte) (m : Mem) : memRead i (memWrite i b m) = b := by
  simp [memRead_memWrite]

theorem memRead_memWrite_other {i j : Nat} (h : j ≠ i) (b : Byte) (m : Mem) :
    memRead j (memWrite i b m) = memRead j m := by
  simp [memRead_memWrite, h]

/-! ### The canonical form -/

theorem wfFrom_cons (lo i : Nat) (b : Byte) (m : Mem) :
    Memory.wfFrom lo ((i, b) :: m) = true ↔
      lo ≤ i ∧ i < bufSize ∧ b ≠ blankByte ∧ Memory.wfFrom (i + 1) m = true := by
  simp [Memory.wfFrom, and_assoc]

theorem wfFrom_mono {lo lo' : Nat} (h : lo' ≤ lo) {m : Mem} (hm : Memory.wfFrom lo m = true) :
    Memory.wfFrom lo' m = true := by
  cases m with
  | nil => rfl
  | cons c m =>
    obtain ⟨i, b⟩ := c
    rw [wfFrom_cons] at hm ⊢
    exact ⟨by omega, hm.2⟩

theorem wfFrom_memErase (i : Nat) (m : Mem) (lo : Nat) (h : Memory.wfFrom lo m = true) :
    Memory.wfFrom lo (memErase i m) = true := by
  induction m generalizing lo with
  | nil => rfl
  | cons c m ih =>
    obtain ⟨j, b⟩ := c
    rw [wfFrom_cons] at h
    rw [memErase_cons]
    split
    · exact ih lo (wfFrom_mono (by omega) h.2.2.2)
    · rw [wfFrom_cons]; exact ⟨h.1, h.2.1, h.2.2.1, ih _ h.2.2.2⟩

theorem wfFrom_memInsert {i : Nat} (hi : i < bufSize) {b : Byte} (hb : b ≠ blankByte) (m : Mem) (lo : Nat)
    (hlo : lo ≤ i) (h : Memory.wfFrom lo m = true) (hm : ∀ c ∈ m, c.1 ≠ i) :
    Memory.wfFrom lo (memInsert i b m) = true := by
  induction m generalizing lo with
  | nil => simp [memInsert, hlo, hi, hb, Memory.wfFrom]
  | cons c m ih =>
    obtain ⟨j, x⟩ := c
    have hj : j ≠ i := hm (j, x) (by simp)
    rw [wfFrom_cons] at h
    unfold memInsert
    split <;> rename_i hlt <;> simp only at hlt
    · rw [wfFrom_cons, wfFrom_cons]; exact ⟨hlo, hi, hb, by omega, h.2⟩
    · rw [wfFrom_cons]
      exact ⟨h.1, h.2.1, h.2.2.1, ih (j + 1) (by omega) h.2.2.2 fun c hc => hm c (by simp [hc])⟩

/-- A write below 62 keeps the canonical form. -/
theorem wf_memWrite {i : Nat} (hi : i < bufSize) (b : Byte) {m : Mem} (h : Memory.wf m = true) :
    Memory.wf (memWrite i b m) = true := by
  unfold memWrite Memory.wf at *
  split
  · exact wfFrom_memErase i m 0 h
  · rename_i hb
    exact wfFrom_memInsert hi hb _ 0 (by omega) (wfFrom_memErase i m 0 h) (by simp [memErase])

theorem memRead_below {lo i : Nat} (hi : i < lo) {m : Mem} (h : Memory.wfFrom lo m = true) :
    memRead i m = blankByte := by
  induction m generalizing lo with
  | nil => rfl
  | cons c m ih =>
    obtain ⟨j, b⟩ := c
    rw [wfFrom_cons] at h
    rw [memRead_cons, if_neg (by omega)]
    exact ih (by omega) h.2.2.2

/-- Nothing is stored at 62 or above (20_memory R61). -/
theorem memRead_above {lo i : Nat} (hi : bufSize ≤ i) {m : Mem} (h : Memory.wfFrom lo m = true) :
    memRead i m = blankByte := by
  induction m generalizing lo with
  | nil => rfl
  | cons c m ih =>
    obtain ⟨j, b⟩ := c
    rw [wfFrom_cons] at h
    rw [memRead_cons, if_neg (by have := h.2.1; simp only [bufSize] at *; omega)]
    exact ih h.2.2.2

theorem wfFrom_ext {m m' : Mem} {lo lo' : Nat} (h : Memory.wfFrom lo m = true) (h' : Memory.wfFrom lo' m' = true)
    (e : ∀ i, memRead i m = memRead i m') : m = m' := by
  induction m generalizing m' lo lo' with
  | nil =>
    cases m' with
    | nil => rfl
    | cons c m' =>
      obtain ⟨j, b⟩ := c
      rw [wfFrom_cons] at h'
      exact absurd (by simpa [memRead_cons] using (e j).symm) h'.2.2.1
  | cons c m ih =>
    obtain ⟨i, b⟩ := c
    rw [wfFrom_cons] at h
    cases m' with
    | nil => exact absurd (by simpa [memRead_cons] using e i) h.2.2.1
    | cons c' m' =>
      obtain ⟨j, b'⟩ := c'
      rw [wfFrom_cons] at h'
      have hij : i = j := by
        by_contra hne
        rcases Nat.lt_or_gt_of_ne hne with hlt | hlt
        · have := e i
          rw [memRead_cons, if_pos rfl, memRead_cons, if_neg (by omega),
            memRead_below (by omega) h'.2.2.2] at this
          exact h.2.2.1 this
        · have := e j
          rw [memRead_cons, if_neg (by omega), memRead_cons, if_pos rfl,
            memRead_below (by omega) h.2.2.2] at this
          exact h'.2.2.1 this.symm
      subst hij
      have hb : b = b' := by simpa [memRead_cons] using e i
      subst hb
      have := ih h.2.2.2 h'.2.2.2 fun k => by
        by_cases hk : k = i
        · rw [memRead_below (by omega) h.2.2.2, memRead_below (by omega) h'.2.2.2]
        · simpa [memRead_cons, Ne.symm hk] using e k
      rw [this]

/-- Buffers in canonical form with the same bytes are the same list. -/
theorem wf_ext {m m' : Mem} (h : Memory.wf m = true) (h' : Memory.wf m' = true)
    (e : ∀ i, memRead i m = memRead i m') : m = m' := wfFrom_ext h h' e

/-! ### The access primitives -/

theorem memStore_of_lt {i : Nat} (h : i < bufSize) (b : Byte) (m : Mem) :
    memStore i b m = .next (memWrite i b m) := if_pos h

theorem memStore_of_ge {i : Nat} (h : bufSize ≤ i) (b : Byte) (m : Mem) :
    memStore i b m = .fault (.bufIndex i) := if_neg (by omega)

/-- All MemWrite can do: write below 62. -/
theorem memStore_next {i : Nat} {b : Byte} {m m' : Mem} (h : memStore i b m = .next m') :
    i < bufSize ∧ m' = memWrite i b m := by
  unfold memStore at h
  split at h
  · exact ⟨‹_›, by injection h with h; exact h.symm⟩
  · cases h

theorem memLoad_of_le {n : Nat} (h : n ≤ bufSize) (m : Mem) :
    memLoad n m = .next ((List.range n).map fun i => memRead i m) := if_pos h

theorem memLoad_next {n : Nat} {m : Mem} {p : List Byte} (h : memLoad n m = .next p) :
    n ≤ bufSize ∧ p = (List.range n).map fun i => memRead i m := by
  unfold memLoad at h
  split at h
  · exact ⟨‹_›, by injection h with h; exact h.symm⟩
  · cases h

end Sys2Proof.Machine
end

