-- ==== Sys2Proof/Laws/Decode.lean ====
section
/-! SUPPORT. Small lemmas of the bit-field helpers, the word format and the boot check. -/

namespace Sys2Proof

/-! ### Byte order -/

/-- The four bytes of a value assemble to it. -/
theorem le32_bytes (v : Value) :
    le32 (v.extractLsb' 0 8) (v.extractLsb' 8 8) (v.extractLsb' 16 8) (v.extractLsb' 24 8) = v := by
  apply BitVec.eq_of_getLsbD_eq
  intro i hi
  simp only [le32, BitVec.getLsbD_or, BitVec.getLsbD_shiftLeft, BitVec.getLsbD_setWidth,
    BitVec.getLsbD_extractLsb']
  interval_cases i <;> simp

/-- The bytes of an assembled value are the ones it was assembled from. -/
theorem bytesLe32_le32 (b0 b1 b2 b3 : Byte) : bytesLe32 (le32 b0 b1 b2 b3) = [b0, b1, b2, b3] := by
  simp only [bytesLe32, le32, List.cons.injEq, and_true]
  refine ⟨?_, ?_, ?_, ?_⟩ <;>
  · apply BitVec.eq_of_getLsbD_eq
    intro i hi
    simp only [BitVec.getLsbD_or, BitVec.getLsbD_shiftLeft, BitVec.getLsbD_setWidth,
      BitVec.getLsbD_extractLsb']
    interval_cases i <;> simp

/-- The two bytes of a check code assemble to it. -/
theorem le16_bytes (c : CheckCode) : le16 (c.extractLsb' 0 8) (c.extractLsb' 8 8) = c := by
  apply BitVec.eq_of_getLsbD_eq
  intro i hi
  simp only [le16, BitVec.getLsbD_or, BitVec.getLsbD_shiftLeft, BitVec.getLsbD_setWidth,
    BitVec.getLsbD_extractLsb']
  interval_cases i <;> simp

/-! ### The word format -/

@[simp] theorem wordDecode_wordEncodeAddr (a : Byte) : wordDecode (wordEncodeAddr a) = .addr a := by
  revert a; decide

@[simp] theorem wordDecode_wordEncodeData (b : Byte) : wordDecode (wordEncodeData b) = .data b := by
  revert b; decide

/-- A word is its decoding, encoded again. -/
theorem wordDecode_cases (w : Symbol) :
    (∃ a, wordDecode w = .addr a ∧ w = wordEncodeAddr a) ∨ (∃ b, wordDecode w = .data b ∧ w = wordEncodeData b) := by
  have h : ∀ w : Symbol,
      (w.getLsbD 8 = true → w = wordEncodeAddr (w.extractLsb' 0 8)) ∧
      (w.getLsbD 8 = false → w = wordEncodeData (w.extractLsb' 0 8)) := by decide
  unfold wordDecode
  split
  · exact .inl ⟨_, rfl, (h w).1 ‹_›⟩
  · exact .inr ⟨_, rfl, (h w).2 (Bool.eq_false_iff.2 ‹_›)⟩

theorem wordEncodeAddr_inj {a b : Byte} (h : wordEncodeAddr a = wordEncodeAddr b) : a = b := by
  have := congrArg wordDecode h
  simpa using this

theorem wordEncodeData_ne_addr (a b : Byte) : wordEncodeData b ≠ wordEncodeAddr a := fun h => by
  simpa using congrArg wordDecode h

/-! ### The boot check -/

/-- RESET accepts exactly the well-formed configurations (10_state R41). -/
theorem checkCfg_eq_none (c : Cfg) : checkCfg c = none ↔ c.wf = true := by
  unfold checkCfg Cfg.wf
  by_cases hl : maxDataLen < c.lenLimit.toNat
  · simp only [if_pos hl, reduceCtorEq, Bool.and_eq_true, decide_eq_true_eq, false_iff]
    omega
  · cases c.role <;> by_cases h : c.localAddr = c.masterAddress <;>
      simp [h, hl, Nat.le_of_not_lt hl]

/-! ### Discriminants -/

theorem decodeDisc_06 (x : BitVec 1) (p : List Byte) :
    decodeDisc (0b0000011#7 ++ x) p = .decUnrecognized06 x p := by
  have h : ∀ x : BitVec 1, (0b0000011#7 ++ x : Byte) ≠ 0x00 ∧
      (0b0000011#7 ++ x : Byte) ≠ 0x01 ∧
      (0b0000011#7 ++ x : Byte) ≠ 0x02 ∧
      (0b0000011#7 ++ x : Byte) ≠ 0x03 ∧
      (0b0000011#7 ++ x : Byte) ≠ 0x04 ∧
      (0b0000011#7 ++ x : Byte) ≠ 0x05 ∧
      (0b0000011#7 ++ x : Byte) &&& 0xFE = 0x06 ∧
      (0b0000011#7 ++ x : Byte).extractLsb' 0 1 = x := by decide
  simp only [decodeDisc, h x, if_false, if_true]

theorem decodeDisc_08 (x : BitVec 3) (p : List Byte) :
    decodeDisc (0b00001#5 ++ x) p = .decUnrecognized08 x p := by
  have h : ∀ x : BitVec 3, (0b00001#5 ++ x : Byte) ≠ 0x00 ∧
      (0b00001#5 ++ x : Byte) ≠ 0x01 ∧
      (0b00001#5 ++ x : Byte) ≠ 0x02 ∧
      (0b00001#5 ++ x : Byte) ≠ 0x03 ∧
      (0b00001#5 ++ x : Byte) ≠ 0x04 ∧
      (0b00001#5 ++ x : Byte) ≠ 0x05 ∧
      (0b00001#5 ++ x : Byte) &&& 0xFE ≠ 0x06 ∧
      (0b00001#5 ++ x : Byte) &&& 0xF8 = 0x08 ∧
      (0b00001#5 ++ x : Byte).extractLsb' 0 3 = x := by decide
  simp only [decodeDisc, h x, if_false, if_true]

theorem decodeDisc_10 (x : BitVec 4) (p : List Byte) :
    decodeDisc (0b0001#4 ++ x) p = .decUnrecognized10 x p := by
  have h : ∀ x : BitVec 4, (0b0001#4 ++ x : Byte) ≠ 0x00 ∧
      (0b0001#4 ++ x : Byte) ≠ 0x01 ∧
      (0b0001#4 ++ x : Byte) ≠ 0x02 ∧
      (0b0001#4 ++ x : Byte) ≠ 0x03 ∧
      (0b0001#4 ++ x : Byte) ≠ 0x04 ∧
      (0b0001#4 ++ x : Byte) ≠ 0x05 ∧
      (0b0001#4 ++ x : Byte) &&& 0xFE ≠ 0x06 ∧
      (0b0001#4 ++ x : Byte) &&& 0xF8 ≠ 0x08 ∧
      (0b0001#4 ++ x : Byte) &&& 0xF0 = 0x10 ∧
      (0b0001#4 ++ x : Byte).extractLsb' 0 4 = x := by decide
  simp only [decodeDisc, h x, if_false, if_true]

theorem decodeDisc_20 (x : BitVec 5) (p : List Byte) :
    decodeDisc (0b001#3 ++ x) p = .decUnrecognized20 x p := by
  have h : ∀ x : BitVec 5, (0b001#3 ++ x : Byte) ≠ 0x00 ∧
      (0b001#3 ++ x : Byte) ≠ 0x01 ∧
      (0b001#3 ++ x : Byte) ≠ 0x02 ∧
      (0b001#3 ++ x : Byte) ≠ 0x03 ∧
      (0b001#3 ++ x : Byte) ≠ 0x04 ∧
      (0b001#3 ++ x : Byte) ≠ 0x05 ∧
      (0b001#3 ++ x : Byte) &&& 0xFE ≠ 0x06 ∧
      (0b001#3 ++ x : Byte) &&& 0xF8 ≠ 0x08 ∧
      (0b001#3 ++ x : Byte) &&& 0xF0 ≠ 0x10 ∧
      (0b001#3 ++ x : Byte) &&& 0xE0 = 0x20 ∧
      (0b001#3 ++ x : Byte).extractLsb' 0 5 = x := by decide
  simp only [decodeDisc, h x, if_false, if_true]

theorem decodeDisc_40 (x : BitVec 6) (p : List Byte) :
    decodeDisc (0b01#2 ++ x) p = .decUnrecognized40 x p := by
  have h : ∀ x : BitVec 6, (0b01#2 ++ x : Byte) ≠ 0x00 ∧
      (0b01#2 ++ x : Byte) ≠ 0x01 ∧
      (0b01#2 ++ x : Byte) ≠ 0x02 ∧
      (0b01#2 ++ x : Byte) ≠ 0x03 ∧
      (0b01#2 ++ x : Byte) ≠ 0x04 ∧
      (0b01#2 ++ x : Byte) ≠ 0x05 ∧
      (0b01#2 ++ x : Byte) &&& 0xFE ≠ 0x06 ∧
      (0b01#2 ++ x : Byte) &&& 0xF8 ≠ 0x08 ∧
      (0b01#2 ++ x : Byte) &&& 0xF0 ≠ 0x10 ∧
      (0b01#2 ++ x : Byte) &&& 0xE0 ≠ 0x20 ∧
      (0b01#2 ++ x : Byte) &&& 0xC0 = 0x40 ∧
      (0b01#2 ++ x : Byte).extractLsb' 0 6 = x := by decide
  simp only [decodeDisc, h x, if_false, if_true]

theorem decodeDisc_80 (x : BitVec 7) (p : List Byte) :
    decodeDisc (0b1#1 ++ x) p = .decUnrecognized80 x p := by
  have h : ∀ x : BitVec 7, (0b1#1 ++ x : Byte) ≠ 0x00 ∧
      (0b1#1 ++ x : Byte) ≠ 0x01 ∧
      (0b1#1 ++ x : Byte) ≠ 0x02 ∧
      (0b1#1 ++ x : Byte) ≠ 0x03 ∧
      (0b1#1 ++ x : Byte) ≠ 0x04 ∧
      (0b1#1 ++ x : Byte) ≠ 0x05 ∧
      (0b1#1 ++ x : Byte) &&& 0xFE ≠ 0x06 ∧
      (0b1#1 ++ x : Byte) &&& 0xF8 ≠ 0x08 ∧
      (0b1#1 ++ x : Byte) &&& 0xF0 ≠ 0x10 ∧
      (0b1#1 ++ x : Byte) &&& 0xE0 ≠ 0x20 ∧
      (0b1#1 ++ x : Byte) &&& 0xC0 ≠ 0x40 ∧
      (0b1#1 ++ x : Byte).extractLsb' 0 7 = x := by decide
  simp only [decodeDisc, h x, if_false]

/-! The free bits of an unrecognized discriminant under the row's fixed bits give the discriminant back. -/

theorem discBits_06 : ∀ d : Byte, d &&& 0xFE = 0x06 → (0b0000011#7 ++ d.extractLsb' 0 1 : Byte) = d := by decide
theorem discBits_08 : ∀ d : Byte, d &&& 0xF8 = 0x08 → (0b00001#5 ++ d.extractLsb' 0 3 : Byte) = d := by decide
theorem discBits_10 : ∀ d : Byte, d &&& 0xF0 = 0x10 → (0b0001#4 ++ d.extractLsb' 0 4 : Byte) = d := by decide
theorem discBits_20 : ∀ d : Byte, d &&& 0xE0 = 0x20 → (0b001#3 ++ d.extractLsb' 0 5 : Byte) = d := by decide
theorem discBits_40 : ∀ d : Byte, d &&& 0xC0 = 0x40 → (0b01#2 ++ d.extractLsb' 0 6 : Byte) = d := by decide
theorem discBits_80 : ∀ d : Byte, d &&& 0x80 = 0x80 → (0b1#1 ++ d.extractLsb' 0 7 : Byte) = d := by decide

/-- The rows of the table cover every discriminant. -/
theorem discBits_cover : ∀ d : Byte, d &&& 0x80 = 0x80 ∨ d = 0x00 ∨ d = 0x01 ∨ d = 0x02 ∨ d = 0x03 ∨ d = 0x04 ∨
    d = 0x05 ∨ d &&& 0xFE = 0x06 ∨ d &&& 0xF8 = 0x08 ∨ d &&& 0xF0 = 0x10 ∨ d &&& 0xE0 = 0x20 ∨
    d &&& 0xC0 = 0x40 := by
  decide

/-- The row of a payload is well formed. -/
theorem wf_decodeDisc (x : Ctx) (d : Byte) (p : List Byte) : (decodeDisc d p).wf x = true := by
  unfold decodeDisc
  simp only [apply_ite (Instr.wf x)]
  simp only [Instr.wf, ite_self]

/-- Encoding the row of a payload gives the payload back. -/
theorem encode_decodeDisc (d : Byte) (p : List Byte) : encode (decodeDisc d p) = .disc8 (d :: p) := by
  unfold decodeDisc
  by_cases g0 : d = 0x00
  · subst g0; rfl
  by_cases g1 : d = 0x01
  · subst g1; rfl
  by_cases g2 : d = 0x02
  · subst g2; rfl
  by_cases g3 : d = 0x03
  · subst g3; rfl
  by_cases g4 : d = 0x04
  · subst g4; rfl
  by_cases g5 : d = 0x05
  · subst g5; rfl
  rw [if_neg g0, if_neg g1, if_neg g2, if_neg g3, if_neg g4, if_neg g5]
  by_cases g6 : d &&& 0xFE = 0x06
  · rw [if_pos g6, encode, discBits_06 d g6]
  by_cases g8 : d &&& 0xF8 = 0x08
  · rw [if_neg g6, if_pos g8, encode, discBits_08 d g8]
  by_cases g10 : d &&& 0xF0 = 0x10
  · rw [if_neg g6, if_neg g8, if_pos g10, encode, discBits_10 d g10]
  by_cases g20 : d &&& 0xE0 = 0x20
  · rw [if_neg g6, if_neg g8, if_neg g10, if_pos g20, encode, discBits_20 d g20]
  by_cases g40 : d &&& 0xC0 = 0x40
  · rw [if_neg g6, if_neg g8, if_neg g10, if_neg g20, if_pos g40, encode, discBits_40 d g40]
  have h := discBits_cover d
  simp only [g0, g1, g2, g3, g4, g5, g6, g8, g10, g20, g40, or_false] at h
  rw [if_neg g6, if_neg g8, if_neg g10, if_neg g20, if_neg g40, encode, discBits_80 d h]

end Sys2Proof
end

