-- ==== Sys2Proof/Laws/Ops.lean ====
section
/-! SUPPORT. One lemma per shared operation that says once all it can do, and the one inversion of exec:
every next state has one of the forms of `Effect`. -/

namespace Sys2Proof.Machine

variable {s t : State}

/-! ### Sequencing -/

@[simp] theorem andThen_next {α β : Type} (a : α) (f : α → Res β) : andThen (.next a) f = f a := rfl
@[simp] theorem andThen_fault {α β : Type} (e : Fault) (f : α → Res β) : andThen (.fault e) f = .fault e := rfl
@[simp] theorem andThen_refused {α β : Type} (e : Refusal) (f : α → Res β) : andThen (.refused e) f = .refused e := rfl

/-- A sequence answers only through both its parts. -/
theorem andThen_eq_next {α β : Type} {r : Res α} {f : α → Res β} {b : β} (h : andThen r f = .next b) :
    ∃ a, r = .next a ∧ f a = .next b := by
  cases r with
  | next a => exact ⟨a, rfl, h⟩
  | fault e => cases h
  | refused e => cases h

theorem next_inj {α : Type} {a b : α} (h : (Host.Outcome.next a : Res α) = .next b) : a = b := by
  injection h

/-! ### The payload -/

theorem payload_of_le (h : s.declLen.toNat ≤ bufSize) :
    s.payload = .next ((List.range s.declLen.toNat).map fun i => memRead i s.buf) := memLoad_of_le h _

theorem payload_next {p : List Byte} (h : s.payload = .next p) :
    s.declLen.toNat ≤ bufSize ∧ p = (List.range s.declLen.toNat).map fun i => memRead i s.buf := memLoad_next h

theorem payload_length {p : List Byte} (h : s.payload = .next p) : p.length = s.declLen.toNat := by
  rw [(payload_next h).2]; simp

/-! ### The Receiver's dispatch -/

theorem rxSelect_drop {x : Ctx} (h : x.rxState ≠ .receiving) (b : Byte) : rxSelect x b = some .drop := by
  unfold rxSelect; split <;> simp_all

theorem rxSelect_lenReject {x : Ctx} {b : Byte} (hr : x.rxState = .receiving) (hl : x.lenValid = false)
    (hb : x.cfg.lenLimit.toNat < b.toNat) : rxSelect x b = some .lenReject := by
  simp only [rxSelect, hr, hl, Bool.false_eq_true, if_false, if_pos hb]

theorem rxSelect_lenZero {x : Ctx} (hr : x.rxState = .receiving) (hl : x.lenValid = false) :
    rxSelect x 0x00 = some .lenZero := by
  simp [rxSelect, hr, hl]

theorem rxSelect_lenOk {x : Ctx} {b : Byte} (hr : x.rxState = .receiving) (hl : x.lenValid = false)
    (h0 : b ≠ 0x00) (hb : b.toNat ≤ x.cfg.lenLimit.toNat) : rxSelect x b = some .lenOk := by
  simp only [rxSelect, hr, hl, Bool.false_eq_true, if_false, if_neg (Nat.not_lt.2 hb), if_neg h0]

theorem rxSelect_payload {x : Ctx} (hr : x.rxState = .receiving) (hl : x.lenValid = true)
    (hc : x.count.val < x.declLen.toNat) (b : Byte) : rxSelect x b = some .payload := by
  simp [rxSelect, hr, hl, hc]

theorem rxSelect_check {x : Ctx} (hr : x.rxState = .receiving) (hl : x.lenValid = true)
    (hc : x.count.val = x.declLen.toNat) (hi : x.cfg.integrity = true) (b : Byte) :
    rxSelect x b = some .check := by
  simp [rxSelect, hr, hl, hc, hi]

/-- What the dispatch says of the control position (41_receiver R121). -/
theorem rxSelect_eq_some {x : Ctx} {b : Byte} {c : RxCase} (h : rxSelect x b = some c) :
    match c with
    | .lenReject => x.rxState = .receiving ∧ x.lenValid = false ∧ x.cfg.lenLimit.toNat < b.toNat
    | .lenZero   => x.rxState = .receiving ∧ x.lenValid = false ∧ b = 0x00
    | .lenOk     => x.rxState = .receiving ∧ x.lenValid = false ∧ b ≠ 0x00 ∧ b.toNat ≤ x.cfg.lenLimit.toNat
    | .payload   => x.rxState = .receiving ∧ x.lenValid = true ∧ x.count.val < x.declLen.toNat
    | .drop      => x.rxState ≠ .receiving
    | .check     => x.rxState = .receiving ∧ x.lenValid = true ∧ x.count.val = x.declLen.toNat ∧
        x.cfg.integrity = true := by
  unfold rxSelect at h
  split at h
  case h_4 hr =>
    by_cases hl : x.lenValid = true
    · rw [if_pos hl] at h
      split at h
      · cases h; exact ⟨hr, hl, ‹_›⟩
      · split at h
        · rename_i hc
          rw [Bool.and_eq_true, beq_iff_eq] at hc
          cases h; exact ⟨hr, hl, hc.2, hc.1⟩
        · cases h
    · rw [if_neg hl] at h
      have hl : x.lenValid = false := by simpa using hl
      split at h
      · cases h; exact ⟨hr, hl, ‹_›⟩
      · split at h
        · cases h; exact ⟨hr, hl, ‹_›⟩
        · cases h; exact ⟨hr, hl, ‹_›, by omega⟩
  all_goals cases h; simp_all

/-! ### The Receiver's cases -/

/-- All a case rule can do, with the label it gives. -/
theorem rxEffect_next {c : RxCase} {b : Byte} {l : RxLabel} (h : rxEffect c b s = .next (t, l)) :
    match c with
    | .lenReject => t = s.enterError ∧ l = .lenReject
    | .lenOk     => t = s.acceptLength b ∧ l = .lenOk
    | .lenZero   =>
        (s.cfg.integrity = true ∧ t = s.acceptLength 0x00 ∧ l = .lenOk) ∨
        (s.cfg.integrity = false ∧ t = (s.acceptLength 0x00).complete ∧ l = .done)
    | .payload   => s.count.val < bufSize ∧
        ((s.count.val + 1 = s.declLen.toNat ∧ s.cfg.integrity = false ∧
            t = (s.stored (memWrite s.count.val b s.buf)).complete ∧ l = .done) ∨
         (¬(s.count.val + 1 = s.declLen.toNat ∧ s.cfg.integrity = false) ∧
            t = s.stored (memWrite s.count.val b s.buf) ∧ l = .store))
    | .drop      => t = s ∧ l = .drop
    | .check     =>
        (s.ckCount = 0 ∧ t = s.checkLow b ∧ l = .ckLo) ∨
        (s.ckCount ≠ 0 ∧ ∃ p, s.payload = .next p ∧
          ((le16 s.ckLo b = Config.checkFn s.cfg.checkSel s.cfg.localAddr s.declLen p ∧
              t = s.checkTaken.complete ∧ l = .done) ∨
           (le16 s.ckLo b ≠ Config.checkFn s.cfg.checkSel s.cfg.localAddr s.declLen p ∧
              t = s.checkTaken.enterError ∧ l = .ckFail))) := by
  cases c <;> simp only [rxEffect] at h ⊢
  case lenReject => cases h; exact ⟨rfl, rfl⟩
  case lenOk => cases h; exact ⟨rfl, rfl⟩
  case lenZero =>
    simp only [lenZero] at h
    split at h
    · cases h; exact .inl ⟨‹_›, rfl, rfl⟩
    · cases h; exact .inr ⟨Bool.eq_false_iff.2 ‹_›, rfl, rfl⟩
  case payload =>
    obtain ⟨m, hm, h⟩ := andThen_eq_next h
    obtain ⟨hlt, rfl⟩ := memStore_next hm
    have hc : (s.stored (memWrite s.count.val b s.buf)).count.val = s.count.val + 1 := by
      have : s.count.val + 1 < 63 := by simp only [bufSize] at hlt; omega
      simp [Fin.ofNat, Nat.mod_eq_of_lt this]
    refine ⟨hlt, ?_⟩
    simp only [hc, State.stored_declLen, State.stored_cfg] at h
    split at h
    · rename_i hd; cases h; exact .inl ⟨hd.1, hd.2, rfl, rfl⟩
    · rename_i hd; cases h; exact .inr ⟨hd, rfl, rfl⟩
  case drop => cases h; exact ⟨rfl, rfl⟩
  case check =>
    simp only [checkByte] at h
    split at h
    · cases h; exact .inl ⟨‹_›, rfl, rfl⟩
    · rename_i hk
      obtain ⟨p, hp, h⟩ := andThen_eq_next h
      refine .inr ⟨hk, p, hp, ?_⟩
      split at h
      · rename_i he; cases h; exact .inl ⟨he, rfl, rfl⟩
      · rename_i he; cases h; exact .inr ⟨he, rfl, rfl⟩

/-- A case rule leaves the mailbox, the configuration and everything outside the Receiver alone. -/
theorem rxEffect_frame {c : RxCase} {b : Byte} {l : RxLabel} (h : rxEffect c b s = .next (t, l)) :
    t.mailbox = s.mailbox ∧ t.cfg = s.cfg ∧ t.out = s.out ∧ t.label = s.label ∧ t.pending = s.pending ∧
      t.draws = s.draws := by
  have h := rxEffect_next h
  cases c <;> simp only at h
  case lenReject => obtain ⟨rfl, -⟩ := h; simp
  case lenOk => obtain ⟨rfl, -⟩ := h; simp
  case lenZero => obtain ⟨-, rfl, -⟩ | ⟨-, rfl, -⟩ := h <;> simp
  case payload => obtain ⟨-, ⟨-, -, rfl, -⟩ | ⟨-, rfl, -⟩⟩ := h <;> simp
  case drop => obtain ⟨rfl, -⟩ := h; simp
  case check => obtain ⟨-, rfl, -⟩ | ⟨-, p, -, ⟨-, rfl, -⟩ | ⟨-, rfl, -⟩⟩ := h <;> simp

/-- All ADD_TO_BUFFER can do: the case its dispatch selects. -/
theorem addToBuffer_next {b : Byte} {l : RxLabel} (h : addToBuffer b s = .next (t, l)) :
    ∃ c, rxSelect s.ctx b = some c ∧ rxEffect c b s = .next (t, l) := by
  unfold addToBuffer at h
  split at h
  · exact ⟨_, ‹_›, h⟩
  · cases h

theorem addToBuffer_of_select {c : RxCase} {b : Byte} (h : rxSelect s.ctx b = some c) :
    addToBuffer b s = rxEffect c b s := by
  simp only [addToBuffer, h]

/-- All a row of RXBYTE can do when run by itself. -/
theorem runRxRow_next {c : RxCase} {b : Byte} (h : runRxRow c b s = .next t) :
    rxSelect s.ctx b = some c ∧ ∃ u l, rxEffect c b s = .next (u, l) ∧ t = u.finish .nothing (.rx l) := by
  unfold runRxRow at h
  split at h
  · obtain ⟨⟨u, l⟩, hu, h⟩ := andThen_eq_next h
    exact ⟨‹_›, u, l, hu, (next_inj h).symm⟩
  · cases h

/-! ### The completion trigger -/

/-- All DECODE_STORE can do. -/
theorem decodeStore_next {l : DecLabel} (h : decodeStore s = .next (t, l)) :
    ∃ p, s.payload = .next p ∧
      ((∃ m, msgDecode s.cfg.excessPolicy p = .ok m ∧ t = s.setMailbox (some m) ∧ l = .stored (kindOf m)) ∨
       (∃ e, msgDecode s.cfg.excessPolicy p = .err e ∧ t = s ∧ l = .fail e)) := by
  obtain ⟨p, hp, h⟩ := andThen_eq_next h
  refine ⟨p, hp, ?_⟩
  split at h
  · cases h; exact .inl ⟨_, ‹_›, rfl, rfl⟩
  · cases h; exact .inr ⟨_, ‹_›, rfl, rfl⟩

theorem triggerFires_completed {before : RxState} (h : triggerFires before s = true) : s.rxState = .completed := by
  unfold triggerFires at h
  split at h <;> simp_all

theorem triggerFires_of_ne {before : RxState} (h : s.rxState ≠ .completed) : triggerFires before s = false := by
  unfold triggerFires
  split <;> simp_all

/-- All the completion trigger can do: at most change the mailbox. -/
theorem completionTrigger_next {before : RxState} {l : DecLabel} (h : completionTrigger before s = .next (t, l)) :
    (triggerFires before s = true ∧ decodeStore s = .next (t, l)) ∨
    (triggerFires before s = false ∧ t = s ∧ l = .none) := by
  unfold completionTrigger at h
  split at h
  · exact .inl ⟨‹_›, h⟩
  · cases h; exact .inr ⟨Bool.eq_false_iff.2 ‹_›, rfl, rfl⟩

theorem decodeStore_mailbox {l : DecLabel} (h : decodeStore s = .next (t, l)) : ∃ m, t = s.setMailbox m := by
  obtain ⟨p, -, ⟨m, -, rfl, -⟩ | ⟨e, -, rfl, -⟩⟩ := decodeStore_next h
  · exact ⟨_, rfl⟩
  · exact ⟨t.mailbox, rfl⟩

theorem completionTrigger_mailbox {before : RxState} {l : DecLabel}
    (h : completionTrigger before s = .next (t, l)) : ∃ m, t = s.setMailbox m := by
  obtain ⟨-, h⟩ | ⟨-, rfl, -⟩ := completionTrigger_next h
  · exact decodeStore_mailbox h
  · exact ⟨t.mailbox, rfl⟩

/-- A frame still in progress fires nothing. -/
theorem completionTrigger_of_ne {before : RxState} (h : s.rxState ≠ .completed) :
    completionTrigger before s = .next (s, .none) := by
  simp [completionTrigger, triggerFires_of_ne h]

/-- All the end of an INGEST can do. -/
theorem finishIngest_next {before : RxState} {u : State} {rx : RxLabel} (h : finishIngest before u rx = .next t) :
    ∃ v d, completionTrigger before u = .next (v, d) ∧ t = v.finish .nothing (.ingest rx d) := by
  obtain ⟨⟨v, d⟩, hv, h⟩ := andThen_eq_next h
  exact ⟨v, d, hv, (next_inj h).symm⟩

/-- A matching address word begins a frame and fires nothing (41_receiver R120, 42_parser R142). -/
theorem matchWord_eq (s : State) :
    matchWord s = .next (s.beginFrame.finish .nothing (.ingest .start .none)) := by
  have h : completionTrigger s.rxState s.beginFrame = .next (s.beginFrame, .none) :=
    completionTrigger_of_ne (by simp)
  rw [matchWord, finishIngest, h, andThen_next]

/-- All a byte fed by a word can do. -/
theorem feedByte_next {b : Byte} (h : feedByte b s = .next t) :
    ∃ c u l v d, rxSelect s.ctx b = some c ∧ rxEffect c b s = .next (u, l) ∧
      completionTrigger s.rxState u = .next (v, d) ∧ t = v.finish .nothing (.ingest l d) := by
  obtain ⟨⟨u, l⟩, hu, h⟩ := andThen_eq_next h
  obtain ⟨c, hc, hu⟩ := addToBuffer_next hu
  obtain ⟨v, d, hv, rfl⟩ := finishIngest_next h
  exact ⟨c, u, l, v, d, hc, hu, hv, rfl⟩

/-! ### exec -/

/-- The forms of a next state: what the instruction `i` can do to the state `s`. -/
inductive Effect (i : Instr) (s : State) : State → Prop where
  /-- a pure function, or `data()`: only the value returned -/
  | pure (o : Output) : Effect i s (s.finish o .none)
  /-- a Receiver case by itself -/
  | rx {c : RxCase} {b : Byte} {u : State} {l : RxLabel} (hc : rxSelect s.ctx b = some c)
      (hu : rxEffect c b s = .next (u, l)) : Effect i s (u.finish .nothing (.rx l))
  /-- a word that is no START -/
  | word {c : RxCase} {b : Byte} {u : State} {l : RxLabel} {v : State} {d : DecLabel}
      (hc : rxSelect s.ctx b = some c) (hu : rxEffect c b s = .next (u, l))
      (hv : completionTrigger s.rxState u = .next (v, d)) : Effect i s (v.finish .nothing (.ingest l d))
  /-- a matching address word -/
  | start (hi : i = .start s.cfg.localAddr ∨ i = .ingest (wordEncodeAddr s.cfg.localAddr)) :
      Effect i s (s.beginFrame.finish .nothing (.ingest .start .none))
  /-- the completion trigger by itself -/
  | trigger {before : RxState} {v : State} {d : DecLabel} (hv : completionTrigger before s = .next (v, d)) :
      Effect i s (v.finish .nothing (.dec d))
  /-- DECODE_STORE by itself -/
  | decode {v : State} {d : DecLabel} (hc : s.rxState = .completed) (hv : decodeStore s = .next (v, d)) :
      Effect i s (v.finish .nothing (.dec d))
  /-- POLL -/
  | poll (hi : i = .poll) : Effect i s ((s.setMailbox none).finish (.taken s.mailbox) (.take s.mailbox))
  /-- RESET -/
  | reset {c : Cfg} (hi : i = .reset c) (hc : c.wf = true) : Effect i s ((s.restart c).finish .nothing .reset)

theorem Effect.of_answer {i : Instr} {o : Output} (h : answer s o = .next t) : Effect i s t := by
  cases h; exact .pure o

theorem Effect.of_runRxRow {i : Instr} {c : RxCase} {b : Byte} (h : runRxRow c b s = .next t) : Effect i s t := by
  obtain ⟨hc, u, l, hu, rfl⟩ := runRxRow_next h
  exact .rx hc hu

theorem Effect.of_feedByte {i : Instr} {b : Byte} (h : feedByte b s = .next t) : Effect i s t := by
  obtain ⟨c, u, l, v, d, hc, hu, hv, rfl⟩ := feedByte_next h
  exact .word hc hu hv

theorem Effect.of_matchWord {i : Instr}
    (hi : i = .start s.cfg.localAddr ∨ i = .ingest (wordEncodeAddr s.cfg.localAddr)) (h : matchWord s = .next t) :
    Effect i s t := by
  rw [matchWord_eq] at h; cases h; exact .start hi

/-- The inversion of exec: the next state of an instruction has one of the forms of `Effect`. -/
theorem exec_effect {i : Instr} (h : exec i s = .next t) : Effect i s t := by
  cases i <;> simp only [exec] at h
  case start a =>
    unfold execStart at h; split at h
    · rename_i ha; subst ha; exact .of_matchWord (.inl rfl) h
    · cases h
  case foreignAddr a =>
    unfold execForeignAddr at h; split at h
    · cases h
    · exact .of_feedByte h
  case data d => exact .of_feedByte h
  case ingest w =>
    unfold execIngest ingest at h
    obtain ⟨a, hw, rfl⟩ | ⟨b, hw, rfl⟩ := wordDecode_cases w
    · simp only [hw] at h
      split at h
      · rename_i ha; subst ha; exact .of_matchWord (.inr rfl) h
      · exact .of_feedByte h
    · simp only [hw] at h; exact .of_feedByte h
  case addToBuffer b =>
    obtain ⟨⟨u, l⟩, hu, h⟩ := andThen_eq_next h
    obtain ⟨c, hc, hu⟩ := addToBuffer_next hu
    cases h; exact .rx hc hu
  case dataRead =>
    obtain ⟨p, -, h⟩ := andThen_eq_next h
    cases h; exact .pure _
  case poll => cases h; exact .poll rfl
  case reset c =>
    unfold execReset at h
    split at h
    · cases h; exact .reset rfl ((checkCfg_eq_none c).1 ‹_›)
    · cases h
  case completionTrigger before =>
    obtain ⟨⟨v, d⟩, hv, h⟩ := andThen_eq_next h
    cases h; exact .trigger hv
  case decodeStore =>
    unfold execDecodeStore at h
    split at h
    · obtain ⟨⟨v, d⟩, hv, h⟩ := andThen_eq_next h
      cases h; exact .decode ‹_› hv
    · cases h
  case rxLenReject b => exact .of_runRxRow h
  case rxLenOk b => exact .of_runRxRow h
  case rxLenZero => exact .of_runRxRow h
  case rxPayload b => exact .of_runRxRow h
  case rxDrop b => exact .of_runRxRow h
  case rxCheck b => exact .of_runRxRow h
  all_goals exact .of_answer h

/-! ### fetch and step -/

/-- Serving a request changes the input alone: every other field is as it was. -/
theorem fetch_next {r : Request} (h : fetch s = some (r, t)) : ∃ ps n, t = s.setPending ps n := by
  unfold fetch at h
  rw [Option.map_eq_some_iff] at h
  obtain ⟨f, -, h⟩ := h
  cases h
  exact ⟨_, _, rfl⟩

/-- All a step can do: nothing without a request, else the instruction the request decodes to. -/
theorem step_next (h : step s = .next t) :
    (fetch s = none ∧ t = s) ∨
    (∃ r u i, fetch s = some (r, u) ∧ decode u.ctx r = .ok i ∧ exec i u = .next t) := by
  unfold step at h
  split at h
  · cases h; exact .inl ⟨‹_›, rfl⟩
  · rename_i r u hf
    split at h
    · exact .inr ⟨r, u, _, hf, ‹_›, h⟩
    · cases h

end Sys2Proof.Machine
end

