-- ==== Sys2Proof/Laws/PerInstr.lean ====
section
/-! SUPPORT. The family RoundTrip: a well-formed instruction, presented and decoded in its context, is that
instruction. One lemma per constructor of Instr. -/

namespace Sys2Proof.Laws.RoundTrip

/-- Decoding the encoding of `i` gives `i`, in every context in which `i` is well formed. -/
def Statement (i : Instr) : Prop := ∀ x : Ctx, i.wf x = true → decode x (encode i) = .ok i

/-! ### What the formats share -/

theorem onPort9_toNat (w : Symbol) (k : Symbol → Instr) : onPort9 w.toNat k = .ok (k w) := by
  rw [onPort9, if_pos w.isLt, BitVec.ofNat_toNat, BitVec.setWidth_eq]

/-- A row of DISC8: the payload's first byte selects it. -/
theorem disc8_row {x : Ctx} {d : Byte} {p : List Byte} {i : Instr} (hd : decodeDisc d p = i) :
    decode x (.disc8 (d :: p)) = .ok i := congrArg Decoded.ok hd

/-- A row of RXBYTE: the control position selects it. -/
theorem rxByte_row {x : Ctx} {b : Byte} {c : RxCase} (h : rxSelect x b = some c) :
    decode x (.rxByte b) = .ok (c.instr b) := by
  simp only [decode, h]

/-! ### One lemma per constructor -/

theorem start (a : Byte) : Statement (.start a) := by
  intro x h
  simp only [Instr.wf, beq_iff_eq] at h
  rw [encode, decode, onPort9_toNat, decodeWord9, wordDecode_wordEncodeAddr]
  exact congrArg Decoded.ok (if_pos h)

theorem foreignAddr (a : Byte) : Statement (.foreignAddr a) := by
  intro x h
  simp only [Instr.wf, bne_iff_ne] at h
  rw [encode, decode, onPort9_toNat, decodeWord9, wordDecode_wordEncodeAddr]
  exact congrArg Decoded.ok (if_neg h)

theorem data (d : Byte) : Statement (.data d) := by
  intro x _
  rw [encode, decode, onPort9_toNat, decodeWord9, wordDecode_wordEncodeData]

theorem rxLenReject (b : Byte) : Statement (.rxLenReject b) := by
  intro x h
  simp only [Instr.wf, Ctx.lengthPhase, Bool.and_eq_true, beq_iff_eq, Bool.not_eq_true', decide_eq_true_eq] at h
  exact rxByte_row (c := .lenReject) (by simp [rxSelect, h.1.1, h.1.2, h.2])

theorem rxLenOk (b : Byte) : Statement (.rxLenOk b) := by
  intro x h
  simp only [Instr.wf, Ctx.lengthPhase, Bool.and_eq_true, beq_iff_eq, Bool.not_eq_true', decide_eq_true_eq,
    bne_iff_ne] at h
  exact rxByte_row (c := .lenOk) (by
    simp only [rxSelect, h.1.1.1, h.1.1.2, Bool.false_eq_true, if_false, if_neg (Nat.not_lt.2 h.2), if_neg h.1.2])

theorem rxLenZero : Statement .rxLenZero := by
  intro x h
  simp only [Instr.wf, Ctx.lengthPhase, Bool.and_eq_true, beq_iff_eq, Bool.not_eq_true'] at h
  exact rxByte_row (c := .lenZero) (by simp [rxSelect, h.1, h.2])

theorem rxPayload (b : Byte) : Statement (.rxPayload b) := by
  intro x h
  simp only [Instr.wf, Ctx.payloadPhase, Bool.and_eq_true, beq_iff_eq, decide_eq_true_eq] at h
  exact rxByte_row (c := .payload) (by simp [rxSelect, h.1.1, h.1.2, h.2])

theorem rxDrop (b : Byte) : Statement (.rxDrop b) := by
  intro x h
  simp only [Instr.wf, bne_iff_ne] at h
  exact rxByte_row (c := .drop) (by cases hx : x.rxState <;> simp_all [rxSelect])

theorem rxCheck (b : Byte) : Statement (.rxCheck b) := by
  intro x h
  simp only [Instr.wf, Ctx.checkPhase, Bool.and_eq_true, beq_iff_eq] at h
  exact rxByte_row (c := .check) (by simp [rxSelect, h.1.1.1, h.1.1.2, h.1.2, h.2])

theorem decBroadcast (p : List Byte) : Statement (.decBroadcast p) := fun _ _ => disc8_row rfl

theorem decDiscoveryRequest (p : List Byte) : Statement (.decDiscoveryRequest p) := fun _ _ => disc8_row rfl

theorem decDiscoveryAck (p : List Byte) : Statement (.decDiscoveryAck p) := fun _ _ => disc8_row rfl

theorem decUpdateRequest (p : List Byte) : Statement (.decUpdateRequest p) := fun _ _ => disc8_row rfl

theorem decSolenoidUpdate (p : List Byte) : Statement (.decSolenoidUpdate p) := fun _ _ => disc8_row rfl

theorem decUnrecognized05 (p : List Byte) : Statement (.decUnrecognized05 p) := fun _ _ => disc8_row rfl

theorem decUnrecognized06 (x : BitVec 1) (p : List Byte) : Statement (.decUnrecognized06 x p) := fun _ _ => disc8_row (decodeDisc_06 x p)

theorem decUnrecognized08 (x : BitVec 3) (p : List Byte) : Statement (.decUnrecognized08 x p) := fun _ _ => disc8_row (decodeDisc_08 x p)

theorem decUnrecognized10 (x : BitVec 4) (p : List Byte) : Statement (.decUnrecognized10 x p) := fun _ _ => disc8_row (decodeDisc_10 x p)

theorem decUnrecognized20 (x : BitVec 5) (p : List Byte) : Statement (.decUnrecognized20 x p) := fun _ _ => disc8_row (decodeDisc_20 x p)

theorem decUnrecognized40 (x : BitVec 6) (p : List Byte) : Statement (.decUnrecognized40 x p) := fun _ _ => disc8_row (decodeDisc_40 x p)

theorem decUnrecognized80 (x : BitVec 7) (p : List Byte) : Statement (.decUnrecognized80 x p) := fun _ _ => disc8_row (decodeDisc_80 x p)

theorem decEmpty : Statement .decEmpty := fun _ _ => rfl

theorem encBroadcast (b : Vector Byte 10) : Statement (.encBroadcast b) := by
  intro x _
  have hb : decodeEnc (0x00 :: b.toList) = some (.encBroadcast b) := by
    rw [show b.toList = [b[0], b[1], b[2], b[3], b[4], b[5], b[6], b[7], b[8], b[9]] by
      apply List.ext_getElem (by simp)
      intro i h1 h2
      rw [Vector.getElem_toList]
      match i, h2 with
      | 0, _ | 1, _ | 2, _ | 3, _ | 4, _ | 5, _ | 6, _ | 7, _ | 8, _ | 9, _ => rfl]
    rw [decodeEnc, if_pos rfl]
    congr 2
    ext i hi
    match i, hi with
    | 0, _ | 1, _ | 2, _ | 3, _ | 4, _ | 5, _ | 6, _ | 7, _ | 8, _ | 9, _ => rfl
  simp only [encode, decode, hb]

theorem encDiscoveryRequest : Statement .encDiscoveryRequest := fun _ _ => rfl

theorem encDiscoveryAck : Statement .encDiscoveryAck := fun _ _ => rfl

theorem encUpdateRequest (v : Value) : Statement (.encUpdateRequest v) := by
  intro x _
  simp only [encode, decode, bytesLe32, decodeEnc, le32_bytes, if_true]

theorem encSolenoidUpdate (v : Value) : Statement (.encSolenoidUpdate v) := by
  intro x _
  have h4 : (0x04 : Byte) ≠ 0x03 := by decide
  simp only [encode, decode, bytesLe32, decodeEnc, le32_bytes, h4, if_true, if_false]

theorem ingest (w : Symbol) : Statement (.ingest w) := by
  intro x _
  exact onPort9_toNat w _

theorem poll : Statement .poll := fun _ _ => rfl

theorem reset (c : Cfg) : Statement (.reset c) := by
  intro x h
  simp only [encode, decode, (checkCfg_eq_none c).2 h]

theorem txFrame (a : Byte) (p : List Byte) : Statement (.txFrame a p) := fun _ _ => rfl

theorem txMessage (a : Byte) (m : Message) : Statement (.txMessage a m) := fun _ _ => rfl

theorem msgEncode (m : Message) : Statement (.msgEncode m) := fun _ _ => rfl

theorem wordDecode (w : Symbol) : Statement (.wordDecode w) := by
  intro x _
  exact onPort9_toNat w _

theorem wordEncodeAddr (a : Byte) : Statement (.wordEncodeAddr a) := fun _ _ => rfl

theorem wordEncodeData (b : Byte) : Statement (.wordEncodeData b) := fun _ _ => rfl

theorem addToBuffer (b : Byte) : Statement (.addToBuffer b) := fun _ _ => rfl

theorem dataRead : Statement .dataRead := fun _ _ => rfl

theorem completionTrigger (r : RxState) : Statement (.completionTrigger r) := fun _ _ => rfl

theorem decodeStore : Statement .decodeStore := fun _ _ => rfl

theorem msgDecode (p : List Byte) : Statement (.msgDecode p) := fun _ _ => rfl

theorem checkLen (p : List Byte) (n : Nat) : Statement (.checkLen p n) := fun _ _ => rfl

theorem solenoid (i : BitVec 12) (o : BitVec 7) (r : BitVec 13) : Statement (.solenoid i o r) := by
  intro x _
  rw [encode, decode, if_pos ⟨i.isLt, o.isLt, r.isLt⟩]
  simp only [BitVec.ofNat_toNat, BitVec.setWidth_eq]

end Sys2Proof.Laws.RoundTrip
end

