-- ==== Sys2Proof/Laws/Words.lean ====
section
/-! SUPPORT. Lemmas about received words one after another, the end of an INGEST, and the byte layouts as
concatenations. -/

namespace Sys2Proof.Machine

variable {s : State}

/-! ### Layouts as concatenations -/

theorem le16_append (lo hi : Byte) : le16 lo hi = hi ++ lo := by
  apply BitVec.eq_of_getLsbD_eq
  intro i hi
  simp only [le16, BitVec.getLsbD_or, BitVec.getLsbD_shiftLeft, BitVec.getLsbD_setWidth, BitVec.getLsbD_append]
  interval_cases i <;> simp

theorem le32_append (b0 b1 b2 b3 : Byte) : le32 b0 b1 b2 b3 = b3 ++ b2 ++ b1 ++ b0 := by
  apply BitVec.eq_of_getLsbD_eq
  intro i hi
  simp only [le32, BitVec.getLsbD_or, BitVec.getLsbD_shiftLeft, BitVec.getLsbD_setWidth, BitVec.getLsbD_append]
  interval_cases i <;> simp

theorem wordEncodeAddr_append (a : Byte) : wordEncodeAddr a = 0b1#1 ++ a := by revert a; decide

theorem wordEncodeData_append (b : Byte) : wordEncodeData b = 0b0#1 ++ b := by revert b; decide

/-- An encoding has exactly its kind's length (30_encoding R85). -/
theorem msgEncode_length (m : Message) : (msgEncode m).length = kindLength (kindOf m) := by
  cases m <;> simp [msgEncode, encBroadcast, encDiscoveryRequest, encDiscoveryAck, encUpdateRequest,
    encSolenoidUpdate, bytesLe32, kindOf, kindLength]

theorem kindLength_le (k : Kind) : kindLength k ≤ 11 := by cases k <;> decide

/-! ### Shared operations where their conditions hold -/

/-- A row of RXBYTE where the dispatch selects it. -/
theorem runRxRow_of_select {c : RxCase} {b : Byte} (h : rxSelect s.ctx b = some c) :
    runRxRow c b s = finishRx (rxEffect c b s) := if_pos h

/-- A kind rule on a payload of at most 62 bytes (43_message_codec R161 to R166). -/
theorem decodeKind_of_le {p : List Byte} (h : p.length ≤ maxDataLen) (pol : ExcessPolicy) (n : Nat) (m : Message) :
    decodeKind pol n p m = match checkLen pol p n with
      | .ok    => .ok m
      | .err e => .err e := if_neg (Nat.not_lt.2 h)

/-- DECODE_STORE, with `data()` as a list. -/
theorem decodeStore_of_le (h : s.declLen.toNat ≤ bufSize) :
    decodeStore s = match msgDecode s.cfg.excessPolicy s.assembled with
      | .ok m  => .next (s.setMailbox (some m), .stored (kindOf m))
      | .err e => .next (s, .fail e) := by
  rw [decodeStore, payload_of_le h]; rfl

/-- `data()` of a buffer that holds `p`. -/
theorem assembled_eq {p : List Byte} (h : s.declLen.toNat = p.length)
    (hp : ∀ j (hj : j < p.length), memRead j s.buf = p[j]) : s.assembled = p := by
  apply List.ext_getElem
  · simp [State.assembled, h]
  · intro i _ h2
    simp [State.assembled, hp i h2]

/-- The end of an INGEST that leaves the frame incomplete. -/
theorem finishIngest_of_ne {before : RxState} {l : RxLabel} (h : s.rxState ≠ .completed) :
    finishIngest before s l = .next (s.finish .nothing (.ingest l .none)) := by
  rw [finishIngest, completionTrigger_of_ne h]; rfl

/-- The end of the INGEST that completes the frame: the trigger fires under both settings. -/
theorem finishIngest_of_done {before : RxState} {l : RxLabel} (hb : before ≠ .completed) (h : s.rxState = .completed) :
    finishIngest before s l = andThen (decodeStore s) fun p => .next (p.1.finish .nothing (.ingest l p.2)) := by
  have ht : triggerFires before s = true := by unfold triggerFires; split <;> simp [h, hb]
  rw [finishIngest, completionTrigger, if_pos ht]

/-! ### Words -/

theorem ingest_data (b : Byte) (s : State) : exec (.ingest (wordEncodeData b)) s = feedByte b s := by
  simp [exec, execIngest, ingest]

theorem ingest_start (s : State) : exec (.ingest (wordEncodeAddr s.cfg.localAddr)) s =
    .next (s.beginFrame.finish .nothing (.ingest .start .none)) := by
  simp [exec, execIngest, ingest, matchWord_eq]

theorem ingestAll_append (ws ws' : List Symbol) (s : State) :
    ingestAll (ws ++ ws') s = andThen (ingestAll ws s) (ingestAll ws') := by
  induction ws generalizing s with
  | nil => rfl
  | cons w ws ih =>
    simp only [List.cons_append, ingestAll]
    cases exec (.ingest w) s with
    | next t => exact ih t
    | fault e => rfl
    | refused e => rfl

end Sys2Proof.Machine
end

