-- ==== Sys2Proof/Tests/Slice0.lean ====
section
/-! SUPPORT. Tests of the model. Expected results are the vectors of spec/95_test_vectors.md, named in each
docstring, or worked out by hand from the rule named there. The `hyp_` theorems show, for every statement with
hypotheses, a concrete state and operands that meet them. -/

namespace Sys2Proof.Tests

open Sys2Proof Sys2Proof.Machine

/-! ### Small states -/

/-- The default configuration of 95_test_vectors, at the Receiver position `(r, l, d, n)`. -/
def at_ (r : RxState) (l : Bool) (d : Byte) (n : Fin 63) : State :=
  { State.reset with rxState := r, lenValid := l, declLen := d, count := n }

/-- The Receiver position of a state, in 95_test_vectors' notation. -/
def posOf (s : State) : RxState × Bool × Byte × Nat := (s.rxState, s.lenValid, s.declLen, s.count.val)

/-- What `f` sees of the state an instruction leads to. -/
def after {α : Type} (i : Instr) (s : State) (f : State → α) : Option α :=
  match exec i s with
  | .next t    => some (f t)
  | .fault _   => none
  | .refused _ => none

/-- What `f` sees of the state that received words lead to. -/
def afterWords {α : Type} (ws : List Symbol) (s : State) (f : State → α) : Option α :=
  match ingestAll ws s with
  | .next t    => some (f t)
  | .fault _   => none
  | .refused _ => none

/-- The refusal of an instruction. -/
def refusalOf (r : Res State) : Option Refusal :=
  match r with
  | .refused e => some e
  | .next _    => none
  | .fault _   => none

/-- `s` with INTEGRITY on. -/
def integ (s : State) : State := { s with cfg := { s.cfg with integrity := true } }

/-- `s` with DECODE_TRIGGER = level. -/
def level (s : State) : State := { s with cfg := { s.cfg with decodeTrigger := .level } }

/-- `s` with EXCESS_POLICY = reject. -/
def rejecting (s : State) : State := { s with cfg := { s.cfg with excessPolicy := .reject } }

/-- `s` with LEN_LIMIT = `n`. -/
def limited (n : BitVec 6) (s : State) : State := { s with cfg := { s.cfg with lenLimit := n } }

/-- The sender of 95_test_vectors section 2.6: a master at address 01. -/
def sender : State := { State.reset with cfg := { Cfg.default with role := .master, localAddr := 0x01 } }

/-- A completed one-byte frame holding `b`. -/
def done1 (b : Byte) : State := { at_ .completed true 1 1 with buf := memWrite 0 b [] }

/-- The length phase. -/
def lenPos : State := at_ .receiving false 0 0

/-! ### WellFormed: each check refuses an ill-formed term -/

theorem test_wf_start : (Instr.start 0x03).wf .atReset = false := by decide
theorem test_wf_foreignAddr : (Instr.foreignAddr 0x02).wf .atReset = false := by decide
theorem test_wf_rxLenReject : (Instr.rxLenReject 62).wf lenPos.ctx = false := by decide
theorem test_wf_rxLenOk : (Instr.rxLenOk 63).wf lenPos.ctx = false := by decide
theorem test_wf_rxLenOk_zero : (Instr.rxLenOk 0).wf lenPos.ctx = false := by decide
theorem test_wf_rxLenZero : Instr.rxLenZero.wf .atReset = false := by decide
theorem test_wf_rxPayload : (Instr.rxPayload 0xAA).wf (at_ .receiving true 3 3).ctx = false := by decide
theorem test_wf_rxDrop : (Instr.rxDrop 0x55).wf lenPos.ctx = false := by decide
theorem test_wf_rxCheck : (Instr.rxCheck 0x55).wf (at_ .receiving true 3 3).ctx = false := by decide
theorem test_wf_reset_limit : (Instr.reset { Cfg.default with lenLimit := 63 }).wf .atReset = false := by decide
theorem test_wf_reset_master : (Instr.reset { Cfg.default with role := .master }).wf .atReset = false := by decide

/-! ### Decoding: words written out from 30_encoding R80, R85, R90 and spec/opcode_table.json -/

theorem test_dec_start : decode .atReset (.word9 0b100000010) = .ok (.start 0x02) := by decide
theorem test_dec_foreignAddr : decode .atReset (.word9 0b111000101) = .ok (.foreignAddr 0xC5) := by decide
theorem test_dec_data : decode .atReset (.word9 0b011111111) = .ok (.data 0xFF) := by decide
theorem test_dec_wide : decode .atReset (.word9 0b1000000010) = .bad .wordTooWide := by decide
theorem test_dec_rxLenReject : decode lenPos.ctx (.rxByte 0b00111111) = .ok (.rxLenReject 63) := by decide
theorem test_dec_rxLenOk : decode lenPos.ctx (.rxByte 0b00111110) = .ok (.rxLenOk 62) := by decide
theorem test_dec_rxLenZero : decode lenPos.ctx (.rxByte 0b00000000) = .ok .rxLenZero := by decide
theorem test_dec_rxPayload : decode (at_ .receiving true 3 2).ctx (.rxByte 0b10101010) = .ok (.rxPayload 0xAA) := by
  decide
theorem test_dec_rxDrop : decode .atReset (.rxByte 0b01010101) = .ok (.rxDrop 0x55) := by decide
theorem test_dec_rxCheck : decode (integ (at_ .receiving true 3 3)).ctx (.rxByte 0b11101111) = .ok (.rxCheck 0xEF) := by
  decide
theorem test_dec_noCase : decode (at_ .receiving true 3 3).ctx (.rxByte 0b00000001) = .bad .noReceiverCase := by decide
theorem test_dec_decBroadcast : decode .atReset (.disc8 [0b00000000, 1]) = .ok (.decBroadcast [1]) := by decide
theorem test_dec_decDiscoveryRequest : decode .atReset (.disc8 [0b00000001]) = .ok (.decDiscoveryRequest []) := by decide
theorem test_dec_decDiscoveryAck : decode .atReset (.disc8 [0b00000010]) = .ok (.decDiscoveryAck []) := by decide
theorem test_dec_decUpdateRequest : decode .atReset (.disc8 [0b00000011, 0x78]) = .ok (.decUpdateRequest [0x78]) := by
  decide
theorem test_dec_decSolenoidUpdate : decode .atReset (.disc8 [0b00000100, 0x23]) = .ok (.decSolenoidUpdate [0x23]) := by
  decide
theorem test_dec_05 : decode .atReset (.disc8 [0b00000101]) = .ok (.decUnrecognized05 []) := by decide
theorem test_dec_06 : decode .atReset (.disc8 [0b00000111]) = .ok (.decUnrecognized06 0b1 []) := by decide
theorem test_dec_08 : decode .atReset (.disc8 [0b00001101]) = .ok (.decUnrecognized08 0b101 []) := by decide
theorem test_dec_10 : decode .atReset (.disc8 [0b00011001]) = .ok (.decUnrecognized10 0b1001 []) := by decide
theorem test_dec_20 : decode .atReset (.disc8 [0b00110001]) = .ok (.decUnrecognized20 0b10001 []) := by decide
theorem test_dec_40 : decode .atReset (.disc8 [0b01100001]) = .ok (.decUnrecognized40 0b100001 []) := by decide
theorem test_dec_80 : decode .atReset (.disc8 [0b11000001]) = .ok (.decUnrecognized80 0b1000001 []) := by decide
theorem test_dec_decEmpty : decode .atReset (.disc8 []) = .ok .decEmpty := by decide
theorem test_dec_encBroadcast : decode .atReset (.msgEnc [0b00000000, 1, 2, 3, 4, 5, 6, 7, 8, 9, 10]) =
    .ok (.encBroadcast #v[1, 2, 3, 4, 5, 6, 7, 8, 9, 10]) := by decide
theorem test_dec_encDiscoveryRequest : decode .atReset (.msgEnc [0b00000001]) = .ok .encDiscoveryRequest := by decide
theorem test_dec_encDiscoveryAck : decode .atReset (.msgEnc [0b00000010]) = .ok .encDiscoveryAck := by decide
theorem test_dec_encUpdateRequest : decode .atReset (.msgEnc [0b00000011, 0x78, 0x56, 0x34, 0x12]) =
    .ok (.encUpdateRequest 0x12345678) := by decide
theorem test_dec_encSolenoidUpdate : decode .atReset (.msgEnc [0b00000100, 0xFF, 0x0F, 0x00, 0x00]) =
    .ok (.encSolenoidUpdate 0x00000FFF) := by decide
theorem test_dec_notAMessage : decode .atReset (.msgEnc [0b00000001, 0x00]) = .bad .notAMessage := by decide

/-- The PORT and FUNC rows have no bits (30_encoding R95): a strobe or a call is its instruction. -/
theorem test_dec_ports :
    decode .atReset (.ingest 0x1FF) = .ok (.ingest 0x1FF) ∧ decode .atReset .poll = .ok .poll ∧
    decode .atReset (.reset .default) = .ok (.reset .default) ∧
    decode .atReset (.txFrame 0x03 [1]) = .ok (.txFrame 0x03 [1]) ∧
    decode .atReset (.txMessage 0x03 .discoveryAck) = .ok (.txMessage 0x03 .discoveryAck) ∧
    decode .atReset (.msgEncode .discoveryAck) = .ok (.msgEncode .discoveryAck) := by decide

theorem test_dec_functions :
    decode .atReset (.wordDecode 0x080) = .ok (.wordDecode 0x080) ∧
    decode .atReset (.wordEncodeAddr 0x02) = .ok (.wordEncodeAddr 0x02) ∧
    decode .atReset (.wordEncodeData 0x02) = .ok (.wordEncodeData 0x02) ∧
    decode .atReset (.addToBuffer 0x02) = .ok (.addToBuffer 0x02) ∧ decode .atReset .dataRead = .ok .dataRead ∧
    decode .atReset (.completionTrigger .error) = .ok (.completionTrigger .error) ∧
    decode .atReset .decodeStore = .ok .decodeStore ∧ decode .atReset (.msgDecode [9]) = .ok (.msgDecode [9]) ∧
    decode .atReset (.checkLen [9] 1) = .ok (.checkLen [9] 1) ∧
    decode .atReset (.solenoid 0xFFF 0x7F 0x1FFF) = .ok (.solenoid 0xFFF 0x7F 0x1FFF) := by decide

/-- Vectors MC10 and MC11; 93 I5, I20, I21; 00_scope R8. -/
theorem test_dec_refused :
    decode .atReset (.solenoid 0x1000 0 0) = .bad .solenoidFieldTooWide ∧
    decode .atReset (.solenoid 0 0x80 0) = .bad .solenoidFieldTooWide ∧
    decode .atReset (.statusWrite 0) = .bad .statusPortReadOnly ∧
    decode .atReset (.configChange .default) = .bad .configChangeOutsideReset ∧
    decode .atReset (.reset { Cfg.default with lenLimit := 63 }) = .bad .lenLimitTooLarge ∧
    decode .atReset (.reset { Cfg.default with role := .master }) = .bad .bootAddress := by decide

theorem test_tableWord_data : decodeTableWord 9 0b000000101 = some (.data 0x05) := by decide
theorem test_tableWord_disc : decodeTableWord 8 0b00000011 = some (.decUpdateRequest [0, 0, 0, 0]) := by decide

/-- Vector PV1, through the fetch. -/
theorem test_step_fetches : step (State.reset.withFetchWord 9 0b100000010) = exec (.start 0x02) State.reset := by rfl

/-- 60_exceptions R215: with no request there is no event. -/
theorem test_step_idle : step State.reset = .next State.reset := by rfl

/-! ### Received words (95_test_vectors sections 2.2, 2.3, 2.7) -/

/-- Vector RV3: the mailbox stays. -/
theorem test_start : after (.start 0x02) { at_ .completed true 5 5 with mailbox := some .discoveryAck }
    (fun t => (posOf t, t.mailbox, t.label)) =
    some ((.receiving, false, 0, 0), some .discoveryAck, .ingest .start .none) := by decide

/-- Vector PV4: a foreign address byte inside a frame. -/
theorem test_foreignAddr : after (.foreignAddr 0xC5) (at_ .receiving true 3 0)
    (fun t => (posOf t, t.buf, t.label)) =
    some ((.receiving, true, 3, 1), [(0, 0xC5)], .ingest .store .none) := by decide

/-- Vector PV13: dropped outside a frame, but `level` stores again. -/
theorem test_foreignAddr_level : after (.foreignAddr 0x03) (level (done1 0x01)) (fun t => (posOf t, t.mailbox, t.label)) =
    some ((.completed, true, 1, 1), some .discoveryRequest, .ingest .drop (.stored .discoveryRequest)) := by decide

/-- Program P5, word 7: a failed decode keeps the earlier message. -/
theorem test_data : after (.data 0x00)
    { at_ .receiving true 2 1 with buf := [(0, 0x07)], mailbox := some .discoveryAck }
    (fun t => (posOf t, t.mailbox, t.label)) =
    some ((.completed, true, 2, 2), some .discoveryAck, .ingest .done (.fail .unrecognized)) := by decide

/-- Vector PV11: `edge` does not fire again. -/
theorem test_data_edge : after (.data 0x77) (done1 0x01) (fun t => (posOf t, t.mailbox, t.label)) =
    some ((.completed, true, 1, 1), none, .ingest .drop .none) := by decide

/-- Vector PV3: a foreign address word's low byte is a length. -/
theorem test_ingest : after (.ingest 0x103) lenPos (fun t => (posOf t, t.label)) =
    some ((.receiving, true, 3, 0), .ingest .lenOk .none) := by decide

/-- Program P1, words 1 to 7: the mailbox holds the message. -/
theorem test_ingest_p1 : afterWords [0x102, 0x005, 0x004, 0x0FF, 0x00F, 0x000, 0x000] State.reset
    (fun t => (posOf t, t.mailbox)) =
    some ((.completed, true, 5, 5), some (.solenoidUpdate 0x00000FFF)) := by decide

/-! ### The Receiver -/

/-- Vector RV10. -/
theorem test_rxLenReject : after (.rxLenReject 63) lenPos (fun t => (posOf t, t.label)) =
    some ((.error, false, 0, 0), .rx .lenReject) := by decide

/-- Vector RV15: LEN_LIMIT = 10. -/
theorem test_rxLenReject_limit : after (.rxLenReject 11) (limited 10 lenPos) posOf = some (.error, false, 0, 0) := by decide

/-- Vector RV9. -/
theorem test_rxLenOk : after (.rxLenOk 62) lenPos (fun t => (posOf t, t.label)) =
    some ((.receiving, true, 62, 0), .rx .lenOk) := by decide

/-- Vector RV14: LEN_LIMIT = 10. -/
theorem test_rxLenOk_limit : after (.rxLenOk 10) (limited 10 lenPos) posOf = some (.receiving, true, 10, 0) := by decide

/-- Vector RV16. -/
theorem test_rxLenZero : after .rxLenZero lenPos (fun t => (posOf t, t.label)) =
    some ((.completed, true, 0, 0), .rx .done) := by decide

/-- Vector RV17: INTEGRITY on. -/
theorem test_rxLenZero_integrity : after .rxLenZero (integ lenPos) (fun t => (posOf t, t.label)) =
    some ((.receiving, true, 0, 0), .rx .lenOk) := by decide

/-- Vector RV21: the largest index is 61; writing 00 leaves no entry. -/
theorem test_rxPayload : after (.rxPayload 0x00) { at_ .receiving true 62 61 with buf := [(0, 1), (61, 9)] }
    (fun t => (posOf t, t.buf, t.label)) =
    some ((.completed, true, 62, 62), [(0, 1)], .rx .done) := by decide

/-- Vector RV20: INTEGRITY on. -/
theorem test_rxPayload_integrity : after (.rxPayload 0xBB) (integ (at_ .receiving true 3 2))
    (fun t => (posOf t, t.buf, t.label)) =
    some ((.receiving, true, 3, 3), [(2, 0xBB)], .rx .store) := by decide

/-- Vector RV7. -/
theorem test_rxDrop : after (.rxDrop 0x01) (at_ .error false 0 0) (fun t => (posOf t, t.label)) =
    some ((.error, false, 0, 0), .rx .drop) := by decide

/-- Vector CV1's fourth word: the low check byte. -/
theorem test_rxCheck_low : after (.rxCheck 0xEF) { integ (at_ .receiving true 1 1) with buf := [(0, 1)] }
    (fun t => (posOf t, t.ckCount, t.ckLo, t.label)) =
    some ((.receiving, true, 1, 1), 1, 0xEF, .rx .ckLo) := by decide

/-- Vector CV3: the bytes swapped are compared as EFBE. -/
theorem test_rxCheck_swapped (h : Config.checkFn 0 0x02 1 [0x01] = 0xBEEF) :
    after (.rxCheck 0xEF) { integ (at_ .receiving true 1 1) with buf := [(0, 1)], ckCount := 1, ckLo := 0xBE }
      (fun t => (t.rxState, t.label)) = some (.error, .rx .ckFail) := by
  have h' : ¬ le16 0xBE 0xEF = Config.checkFn 0 0x02 1 [0x01] := by rw [h]; decide
  exact congrArg (fun r : Res State => match r with
    | .next t => some (t.rxState, t.label)
    | .fault _ => none
    | .refused _ => none) (congrArg finishRx (if_neg h'))

/-- Vector RV18, through the dispatch. -/
theorem test_addToBuffer : after (.addToBuffer 0xAA) (at_ .receiving true 3 1) (fun t => (posOf t, t.buf)) =
    some ((.receiving, true, 3, 2), [(1, 0xAA)]) := by decide

/-- Vector RV23. -/
theorem test_dataRead : after .dataRead { at_ .completed true 3 3 with buf := [(0, 0x0A), (1, 0x0B), (2, 0x0C)] } State.out =
    some (.bytes [0x0A, 0x0B, 0x0C]) := by decide

/-! ### Trigger, mailbox, reset -/

/-- 42_parser R142 under `edge`: a frame that was complete already does not fire. -/
theorem test_completionTrigger : after (.completionTrigger .completed) (done1 0x01) (fun t => (t.mailbox, t.label)) =
    some (none, .dec .none) := by decide

theorem test_completionTrigger_fires : after (.completionTrigger .receiving) (done1 0x01) (fun t => (t.mailbox, t.label)) =
    some (some .discoveryRequest, .dec (.stored .discoveryRequest)) := by decide

/-- 42_parser R143's overwrite. -/
theorem test_decodeStore : after .decodeStore { done1 0x02 with mailbox := some .discoveryRequest } State.mailbox =
    some (some .discoveryAck) := by decide

/-- Vector PV17, with a message: the frame is undisturbed. -/
theorem test_poll : after .poll { at_ .receiving true 5 2 with mailbox := some .discoveryAck }
    (fun t => (posOf t, t.mailbox, t.out)) =
    some ((.receiving, true, 5, 2), none, .taken (some .discoveryAck)) := by decide

/-- Vector RS3. -/
theorem test_reset : after (.reset .default) { at_ .error false 0 0 with ckCount := 1, mailbox := some .discoveryAck }
    (fun t => (posOf t, t.ckCount, t.mailbox, t.label)) =
    some ((.idle, false, 0, 0), 0, none, .reset) := by decide

/-- 10_state R41 lists every address as legal for a slave (log entry 28). -/
theorem test_reset_slave : after (.reset { Cfg.default with localAddr := 0x01 }) State.reset (fun t => (t.label, t.cfg.localAddr)) =
    some (.reset, 0x01) := by decide

/-- 93 I21. -/
theorem test_reset_refused : refusalOf (exec (.reset { Cfg.default with role := .master }) State.reset) =
    some (.badRequest .bootAddress) := by decide

/-! ### The codecs (95_test_vectors sections 2.1, 2.4, 2.5) -/

/-- Vectors W2 and W6. -/
theorem test_wordDecode : after (.wordDecode 0x0FF) State.reset State.out = some (.word (.data 0xFF)) ∧
    after (.wordDecode 0x180) State.reset State.out = some (.word (.addr 0x80)) := by decide

/-- Vector W9. -/
theorem test_wordEncodeAddr : after (.wordEncodeAddr 0xFF) State.reset State.out = some (.symbol 0x1FF) := by decide

/-- Vector W11. -/
theorem test_wordEncodeData : after (.wordEncodeData 0xFF) State.reset State.out = some (.symbol 0x0FF) := by decide

/-- Vectors MD3 and MD4. -/
theorem test_decBroadcast :
    after (.decBroadcast [1, 2, 3, 4, 5, 6, 7, 8, 9]) State.reset State.out = some (.decoded (.err .short)) ∧
    after (.decBroadcast [1, 2, 3, 4, 5, 6, 7, 8, 9, 10]) State.reset State.out =
      some (.decoded (.ok (.broadcast #v[1, 2, 3, 4, 5, 6, 7, 8, 9, 10]))) := by decide

/-- Vector MD7. -/
theorem test_decDiscoveryRequest :
    after (.decDiscoveryRequest [0x55]) State.reset State.out = some (.decoded (.ok .discoveryRequest)) ∧
    after (.decDiscoveryRequest [0x55]) (rejecting State.reset) State.out = some (.decoded (.err .excess)) := by decide

/-- Vector MD8. -/
theorem test_decDiscoveryAck : after (.decDiscoveryAck []) (rejecting State.reset) State.out =
    some (.decoded (.ok .discoveryAck)) := by decide

/-- Vectors MD9 and MD10. -/
theorem test_decUpdateRequest :
    after (.decUpdateRequest [0x78, 0x56, 0x34, 0x12]) State.reset State.out =
      some (.decoded (.ok (.updateRequest 0x12345678))) ∧
    after (.decUpdateRequest [0x78, 0x56, 0x34]) State.reset State.out = some (.decoded (.err .short)) := by decide

/-- Vectors MD14 and MD15: the reserved bits are kept. -/
theorem test_decSolenoidUpdate :
    after (.decSolenoidUpdate [0x00, 0x00, 0xF8, 0xFF]) State.reset State.out =
      some (.decoded (.ok (.solenoidUpdate 0xFFF80000))) ∧
    after (.decSolenoidUpdate [0x01]) State.reset State.out = some (.decoded (.err .short)) := by decide

/-- Vectors MD16 and MD18, and 43_message_codec R167 for the other rows. -/
theorem test_decUnrecognized : ∀ i ∈ [Instr.decUnrecognized05 [], .decUnrecognized06 0 [], .decUnrecognized08 1 [],
    .decUnrecognized10 0 [], .decUnrecognized20 0 [], .decUnrecognized40 0 [], .decUnrecognized80 0x7F [0, 0, 0, 0]],
    after i State.reset State.out = some (.decoded (.err .unrecognized)) := by decide

/-- Vector MD1. -/
theorem test_decEmpty : after .decEmpty State.reset State.out = some (.decoded (.err .short)) := by decide

/-- Vectors MD5 and MD17. -/
theorem test_msgDecode :
    after (.msgDecode [0, 1, 2, 3, 4, 5, 6, 7, 8, 9, 10, 11]) (rejecting State.reset) State.out =
      some (.decoded (.err .excess)) ∧
    after (.msgDecode [0xFF, 0, 0, 0, 0]) State.reset State.out = some (.decoded (.err .unrecognized)) := by decide

/-- 43_message_codec R166, at the length itself and on both sides of it. -/
theorem test_checkLen :
    after (.checkLen [1, 2] 3) (rejecting State.reset) State.out = some (.lenChecked (.err .short)) ∧
    after (.checkLen [1, 2] 2) (rejecting State.reset) State.out = some (.lenChecked .ok) ∧
    after (.checkLen [1, 2] 1) (rejecting State.reset) State.out = some (.lenChecked (.err .excess)) ∧
    after (.checkLen [1, 2] 1) State.reset State.out = some (.lenChecked .ok) := by decide

/-- 43_message_codec R160 states no result for 63 bytes: the decode runs, with a free value (log entry 23). -/
theorem test_msgDecode_long : after (.msgDecode (List.replicate 63 0)) State.reset State.label = some .none ∧
    (step { State.reset with pending := [[.disc8 (List.replicate 63 0)]] } =
      exec (.decBroadcast (List.replicate 62 0)) State.reset) := ⟨rfl, rfl⟩

/-- 43_message_codec R167, "whatever the length", and R166 on 63 bytes. -/
theorem test_long_stated :
    after (.msgDecode (List.replicate 63 0x05)) State.reset State.out = some (.decoded (.err .unrecognized)) ∧
    after (.checkLen (List.replicate 63 0) 1) (rejecting State.reset) State.out = some (.lenChecked (.err .excess)) := by
  decide

/-- Vector MC1. -/
theorem test_encBroadcast : after (.encBroadcast #v[1, 2, 3, 4, 5, 6, 7, 8, 9, 10]) State.reset State.out =
    some (.bytes [0, 1, 2, 3, 4, 5, 6, 7, 8, 9, 10]) := by decide

/-- Vectors MC3 and MC4. -/
theorem test_encSignals : after .encDiscoveryRequest State.reset State.out = some (.bytes [0x01]) ∧
    after .encDiscoveryAck State.reset State.out = some (.bytes [0x02]) := by decide

/-- Vector MC6. -/
theorem test_encUpdateRequest : after (.encUpdateRequest 0xDEADBEEF) State.reset State.out =
    some (.bytes [0x03, 0xEF, 0xBE, 0xAD, 0xDE]) := by decide

/-- Vector MC8. -/
theorem test_encSolenoidUpdate : after (.encSolenoidUpdate 0x00045123) State.reset State.out =
    some (.bytes [0x04, 0x23, 0x51, 0x04, 0x00]) := by decide

/-- Vector MC9. -/
theorem test_msgEncode : after (.msgEncode (.solenoidUpdate 0xFFF80000)) State.reset State.out =
    some (.bytes [0x04, 0x00, 0x00, 0xF8, 0xFF]) := by decide

/-- Vectors MC8 and MC9. -/
theorem test_solenoid : after (.solenoid 0x123 0x45 0) State.reset State.out = some (.record 0x00045123) ∧
    after (.solenoid 0 0 0x1FFF) State.reset State.out = some (.record 0xFFF80000) := by decide

/-! ### The frame encoder (95_test_vectors section 2.6) -/

/-- Vectors TV2 and TV6. -/
theorem test_txFrame : after (.txFrame 0x02 []) sender State.out = some (.frame (.words [0x102, 0x000])) ∧
    after (.txFrame 0x01 [0x01]) sender State.out = some (.frame (.error .sendToSelf)) := by decide

/-- Vectors TV7 (FrameTooLong is checked first) and TV8 (LOOPBACK on). -/
theorem test_txFrame_self :
    after (.txFrame 0x01 (List.replicate 63 0)) sender State.out = some (.frame (.error .frameTooLong)) ∧
    after (.txFrame 0x01 [0x01]) { sender with cfg := { sender.cfg with loopback := true } } State.out =
      some (.frame (.words [0x101, 0x001, 0x001])) := by decide

/-- Vector TV9. -/
theorem test_txFrame_integrity (h : Config.checkFn 0 0x02 1 [0x01] = 0xBEEF) :
    after (.txFrame 0x02 [0x01]) (integ sender) State.out =
      some (.frame (.words [0x102, 0x001, 0x001, 0x0EF, 0x0BE])) := by
  have e : checkWords (integ sender).cfg 0x02 [0x01] = [0x0EF, 0x0BE] := by
    show (bytesLe16 (Config.checkFn 0 0x02 1 [0x01])).map wordEncodeData = _
    rw [h]; decide
  show some (Output.frame (.words (_ ++ checkWords (integ sender).cfg 0x02 [0x01]))) = _
  rw [e]; decide

/-- Vector TV11. -/
theorem test_txMessage : after (.txMessage 0x03 (.updateRequest 0x12345678)) sender State.out =
    some (.frame (.words [0x103, 0x005, 0x003, 0x078, 0x056, 0x034, 0x012])) := by decide

/-- Vector TV12. -/
theorem test_txMessage_self : after (.txMessage 0x01 (.broadcast #v[0, 0, 0, 0, 0, 0, 0, 0, 0, 0])) sender State.out =
    some (.frame (.error .sendToSelf)) := by decide

/-! ### Ports (10_state R42, R43) -/

theorem test_ports : (done1 0x01).statusPort = 0b010 ∧
    ({ at_ .error false 0 0 with mailbox := some (.solenoidUpdate 0x00000FFF) } : State).statusPort = 0b111 ∧
    ({ State.reset with mailbox := some (.solenoidUpdate 0x00000FFF) } : State).mboxPort = some (4, 0xFFF) := by decide

/-! ### The hypotheses of the statements are met

One theorem for each statement with hypotheses, clause by clause, at the boundary values. -/

/-- The payload phase with one byte to come, of the largest frame. -/
def lastOf62 : State := at_ .receiving true 62 61

/-- A one-byte frame in its check phase, the first check byte taken, for the value CHECK_FN has there. -/
def checked (good : Bool) : State :=
  { integ (at_ .receiving true 1 1) with
    buf := [(0, 1)], ckCount := 1
    ckLo := if good then (Config.checkFn 0 0x02 1 [0x01]).extractLsb' 0 8
            else ~~~ (Config.checkFn 0 0x02 1 [0x01]).extractLsb' 0 8 }

theorem inv_reset : Machine.Inv State.reset := by constructor <;> decide
theorem inv_lenPos : Machine.Inv lenPos := by constructor <;> decide
theorem inv_lastOf62 : Machine.Inv lastOf62 := by constructor <;> decide
theorem inv_done1 : Machine.Inv (done1 0x01) := by constructor <;> decide
theorem inv_error : Machine.Inv (at_ .error false 0 0) := by constructor <;> decide
theorem inv_check : Machine.Inv (integ (at_ .receiving true 1 1)) := by constructor <;> decide

theorem hyp_IngestActsOnTheWord : 0x02 = State.reset.cfg.localAddr ∧ 0x03 ≠ State.reset.cfg.localAddr := by decide

theorem hyp_ForeignAddressIsTakenAsData : 0x03 ≠ State.reset.cfg.localAddr := by decide

theorem hyp_IngestIsReceiverThenTrigger : ∃ u v l d,
    exec (.addToBuffer 0x01) (at_ .receiving true 1 0) = .next u ∧ u.label = .rx l ∧
    exec (.completionTrigger .receiving) u = .next v ∧ v.label = .dec d :=
  ⟨_, _, _, _, rfl, rfl, rfl, rfl⟩

theorem hyp_EveryWordCompletes : Machine.Inv lastOf62 ∧ 0x03 ≠ lastOf62.cfg.localAddr := ⟨inv_lastOf62, by decide⟩

theorem hyp_WordRowsNeedTheirAddress : 0x03 ≠ State.reset.cfg.localAddr ∧ 0x02 = State.reset.cfg.localAddr := by decide

theorem hyp_LengthAboveLimitIsRejected :
    lenPos.rxState = .receiving ∧ lenPos.lenValid = false ∧ lenPos.cfg.lenLimit.toNat < (63 : Byte).toNat ∧
    (limited 0 lenPos).cfg.lenLimit.toNat < (1 : Byte).toNat := by decide

theorem hyp_LengthIsAccepted :
    lenPos.rxState = .receiving ∧ lenPos.lenValid = false ∧ 1 ≤ (1 : Byte).toNat ∧
    (62 : Byte).toNat ≤ lenPos.cfg.lenLimit.toNat ∧ (1 : Byte).toNat ≤ (limited 1 lenPos).cfg.lenLimit.toNat := by decide

theorem hyp_ZeroLengthEndsThePayload :
    lenPos.rxState = .receiving ∧ lenPos.lenValid = false ∧ lenPos.cfg.integrity = false ∧
    (integ lenPos).rxState = .receiving ∧ (integ lenPos).lenValid = false ∧ (integ lenPos).cfg.integrity = true := by decide

theorem hyp_PayloadByteIsStoredAtCount :
    (∀ s ∈ [lastOf62, integ lastOf62, at_ .receiving true 62 0],
      s.rxState = .receiving ∧ s.lenValid = true ∧ s.count.val < s.declLen.toNat ∧ s.declLen.toNat ≤ 62) ∧
    (lastOf62.count.val + 1 = lastOf62.declLen.toNat ∧ lastOf62.cfg.integrity = false) ∧
    ¬((integ lastOf62).count.val + 1 = (integ lastOf62).declLen.toNat ∧ (integ lastOf62).cfg.integrity = false) ∧
    ¬((at_ .receiving true 62 0).count.val + 1 = (at_ .receiving true 62 0).declLen.toNat ∧
      (at_ .receiving true 62 0).cfg.integrity = false) := by decide

theorem hyp_ByteOutsideAFrameIsDropped :
    State.reset.rxState = .idle ∧ (done1 0x01).rxState = .completed ∧ (at_ .error false 0 0).rxState = .error := by decide

theorem hyp_CheckBytesAreVerified_low :
    ∀ s ∈ [integ (at_ .receiving true 0 0), integ (at_ .receiving true 62 62)],
      s.rxState = .receiving ∧ s.lenValid = true ∧ s.count.val = s.declLen.toNat ∧ s.declLen.toNat ≤ 62 ∧
      s.cfg.integrity = true ∧ s.ckCount = 0 := by decide

theorem hyp_CheckBytesAreVerified_match : let s := checked true
    s.rxState = .receiving ∧ s.lenValid = true ∧ s.count.val = s.declLen.toNat ∧ s.declLen.toNat ≤ 62 ∧
    s.cfg.integrity = true ∧ s.ckCount = 1 ∧
    (Config.checkFn 0 0x02 1 [0x01]).extractLsb' 8 8 ++ s.ckLo =
      Config.checkFn s.cfg.checkSel s.cfg.localAddr s.declLen s.assembled := by
  refine ⟨rfl, rfl, rfl, by decide, rfl, rfl, ?_⟩
  show (Config.checkFn 0 0x02 1 [0x01]).extractLsb' 8 8 ++ (Config.checkFn 0 0x02 1 [0x01]).extractLsb' 0 8 =
    Config.checkFn 0 0x02 1 [0x01]
  generalize Config.checkFn 0 0x02 1 [0x01] = c
  apply BitVec.eq_of_getLsbD_eq
  intro i hi
  simp only [BitVec.getLsbD_append, BitVec.getLsbD_extractLsb']
  interval_cases i <;> simp

theorem hyp_CheckBytesAreVerified_mismatch : let s := checked false
    s.rxState = .receiving ∧ s.lenValid = true ∧ s.count.val = s.declLen.toNat ∧ s.declLen.toNat ≤ 62 ∧
    s.cfg.integrity = true ∧ s.ckCount = 1 ∧
    (Config.checkFn 0 0x02 1 [0x01]).extractLsb' 8 8 ++ s.ckLo ≠
      Config.checkFn s.cfg.checkSel s.cfg.localAddr s.declLen s.assembled := by
  refine ⟨rfl, rfl, rfl, by decide, rfl, rfl, ?_⟩
  show (Config.checkFn 0 0x02 1 [0x01]).extractLsb' 8 8 ++ (~~~ (Config.checkFn 0 0x02 1 [0x01]).extractLsb' 0 8) ≠
    Config.checkFn 0 0x02 1 [0x01]
  generalize Config.checkFn 0 0x02 1 [0x01] = c
  intro h
  have := congrArg (fun x => x.getLsbD 0) h
  simp only [BitVec.getLsbD_append, BitVec.getLsbD_not, BitVec.getLsbD_extractLsb'] at this
  simp at this

theorem hyp_AddToBufferDispatches :
    State.reset.rxState ≠ .receiving ∧ lenPos.rxState = .receiving ∧ lenPos.lenValid = false ∧
    lenPos.cfg.lenLimit.toNat < (63 : Byte).toNat ∧
    ((1 : Byte) ≠ 0 ∧ (1 : Byte).toNat ≤ lenPos.cfg.lenLimit.toNat) ∧
    ((62 : Byte) ≠ 0 ∧ (62 : Byte).toNat ≤ lenPos.cfg.lenLimit.toNat) ∧
    (lastOf62.rxState = .receiving ∧ lastOf62.lenValid = true ∧ lastOf62.count.val < lastOf62.declLen.toNat) ∧
    ((checked true).rxState = .receiving ∧ (checked true).lenValid = true ∧
      (checked true).count.val = (checked true).declLen.toNat ∧ (checked true).cfg.integrity = true) :=
  ⟨by decide, rfl, rfl, by decide, by decide, by decide, by decide, rfl, rfl, rfl, rfl⟩

theorem hyp_InternalRowsNeedTheirPosition :
    lenPos.rxState = .receiving ∧ State.reset.rxState ≠ .receiving ∧ lastOf62.lenValid = true ∧ lenPos.lenValid = false ∧
    ((62 : Byte).toNat ≤ lenPos.cfg.lenLimit.toNat ∧ lenPos.cfg.lenLimit.toNat < (63 : Byte).toNat) ∧
    ((at_ .receiving true 3 3).rxState = .receiving ∧ (at_ .receiving true 3 3).lenValid = true ∧
      (at_ .receiving true 3 3).declLen.toNat ≤ (at_ .receiving true 3 3).count.val ∧
      (at_ .receiving true 3 3).cfg.integrity = false) ∧
    ((integ (at_ .receiving true 3 4)).declLen.toNat ≤ (integ (at_ .receiving true 3 4)).count.val ∧
      (integ (at_ .receiving true 3 4)).count.val ≠ (integ (at_ .receiving true 3 4)).declLen.toNat) ∧
    lenPos.rxState ≠ .completed := by decide

/-- The refused Receiver rows at count = decl_len - 1 and at count = decl_len, and on a byte outside their range. -/
theorem hyp_InternalRowsNeedTheirPosition_rows :
    refusalOf (exec (.rxPayload 0xAA) (at_ .receiving true 3 3)) = some .notSelected ∧
    refusalOf (exec (.rxPayload 0xAA) (integ (at_ .receiving true 3 3))) = some .notSelected ∧
    refusalOf (exec (.rxPayload 0xAA) (at_ .receiving true 3 2)) = none ∧
    refusalOf (exec (.rxCheck 0xAA) (integ (at_ .receiving true 3 2))) = some .notSelected ∧
    refusalOf (exec (.rxCheck 0xAA) (at_ .receiving true 3 3)) = some .notSelected ∧
    refusalOf (exec (.rxCheck 0xAA) (integ (at_ .receiving true 3 3))) = none ∧
    refusalOf (exec (.rxLenReject 62) lenPos) = some .notSelected ∧
    refusalOf (exec (.rxLenOk 63) lenPos) = some .notSelected ∧
    refusalOf (exec (.rxLenOk 0) lenPos) = some .notSelected := by decide

theorem hyp_DataReadReturnsThePayload :
    State.reset.declLen.toNat ≤ 62 ∧ lastOf62.declLen.toNat = 62 ∧ 61 < lastOf62.declLen.toNat := by decide

theorem hyp_IndexBeyondTheBufferFaults : let s := at_ .receiving true 63 62
    62 < s.declLen.toNat ∧ s.rxState = .receiving ∧ s.lenValid = true ∧ s.count.val < s.declLen.toNat ∧ s.count.val = 62 := by
  decide

theorem hyp_RejectedLengthNeverCompletes :
    lenPos.rxState = .receiving ∧ lenPos.lenValid = false ∧ lenPos.cfg.lenLimit.toNat < (63 : Byte).toNat ∧
    ∀ w ∈ [(0x103 : Symbol), 0x002, 0x101], notMatching lenPos.cfg.localAddr w := by
  refine ⟨rfl, rfl, by decide, fun w hw => ?_⟩
  simp only [List.mem_cons, List.not_mem_nil, or_false] at hw
  unfold notMatching
  obtain rfl | rfl | rfl := hw <;> decide

theorem hyp_BufferIsWrittenOnlyAtCount : (∀ c, Instr.rxPayload 0x01 ≠ .reset c) ∧
    ∃ t, exec (.rxPayload 0x01) lastOf62 = .next t := ⟨by simp, _, rfl⟩

theorem hyp_TriggerFiresByItsSetting :
    ((done1 0x01).cfg.decodeTrigger = .edge ∧ (done1 0x01).rxState = .completed ∧ RxState.receiving ≠ .completed) ∧
    (lenPos.cfg.decodeTrigger = .edge ∧ lenPos.rxState ≠ .completed) ∧
    ((level (done1 0x01)).cfg.decodeTrigger = .level ∧ (level (done1 0x01)).rxState = .completed) ∧
    ((level lenPos).cfg.decodeTrigger = .level ∧ (level lenPos).rxState ≠ .completed) := by decide

theorem hyp_DecodeStoreFillsTheMailbox :
    ((done1 0x02).rxState = .completed ∧ (done1 0x02).declLen.toNat ≤ 62 ∧
      msgDecode (done1 0x02).cfg.excessPolicy (done1 0x02).assembled = .ok .discoveryAck) ∧
    ((at_ .completed true 62 62).rxState = .completed ∧ (at_ .completed true 62 62).declLen.toNat ≤ 62 ∧
      msgDecode (rejecting (at_ .completed true 62 62)).cfg.excessPolicy (at_ .completed true 62 62).assembled =
        .err .excess) ∧
    ((at_ .completed true 0 0).rxState = .completed ∧
      msgDecode (at_ .completed true 0 0).cfg.excessPolicy (at_ .completed true 0 0).assembled = .err .short) := by decide

theorem hyp_MailboxHasThreeWriters :
    (∃ t, exec .decodeStore (done1 0x02) = .next t) ∧ (∃ t, exec .poll (done1 0x02) = .next t) ∧
    ∃ t, exec (.reset .default) (done1 0x02) = .next t := ⟨⟨_, rfl⟩, ⟨_, rfl⟩, _, rfl⟩

theorem hyp_LevelTriggerStoresAgain :
    (done1 0x01).rxState = .completed ∧ (done1 0x01).declLen.toNat ≤ 62 ∧
    msgDecode (done1 0x01).cfg.excessPolicy (done1 0x01).assembled = .ok .discoveryRequest ∧
    notMatching (done1 0x01).cfg.localAddr 0x002 ∧
    (done1 0x01).cfg.decodeTrigger = .edge ∧ (level (done1 0x01)).cfg.decodeTrigger = .level :=
  ⟨rfl, by decide, by decide, (by decide : (0x002 : Symbol) ≠ 0x102), rfl, rfl⟩

theorem hyp_BroadcastIsDecoded : (List.replicate 9 (0 : Byte)).length < 10 ∧
    (List.replicate 51 (0 : Byte)).length + 11 ≤ 62 := by decide

theorem hyp_DiscoverySignalsAreDecoded : (List.replicate 61 (0 : Byte)).length + 1 ≤ 62 := by decide

theorem hyp_ValuesAreDecodedLittleEndian : (List.replicate 3 (0 : Byte)).length < 4 ∧
    (List.replicate 57 (0 : Byte)).length + 5 ≤ 62 := by decide

theorem hyp_UnknownDiscriminantsFail :
    5 ≤ (0x05 : Byte).toNat ∧ 5 ≤ (0xFF : Byte).toNat ∧
    Instr.decUnrecognized80 0x7F [] ∈ [Instr.decUnrecognized05 [], .decUnrecognized80 0x7F []] ∧
    (done1 0x05).rxState = .completed ∧ (done1 0x05).declLen.toNat ≤ 62 ∧ (done1 0x05).assembled = [0x05] := by decide

theorem hyp_TruncatedPayloadIsShort :
    ((0x00 : Byte) = 0x00 ∧ (List.replicate 9 (0 : Byte)).length + 1 < 11) ∧
    ((0x03 : Byte) = 0x03 ∧ (List.replicate 3 (0 : Byte)).length + 1 < 5) ∧
    ((0x04 : Byte) = 0x04 ∧ ([] : List Byte).length + 1 < 5) := by decide

theorem hyp_MsgDecodeDispatches : 5 ≤ (0x05 : Byte).toNat ∧ 5 ≤ (0xFF : Byte).toNat := by decide

theorem hyp_CheckLenComparesTheLength :
    [(1 : Byte)].length < 2 ∧ (0 < [(1 : Byte)].length ∧ (rejecting State.reset).cfg.excessPolicy = .reject) ∧
    1 = [(1 : Byte)].length ∧ (0 < [(1 : Byte)].length ∧ State.reset.cfg.excessPolicy = .ignore) := by decide

theorem hyp_SolenoidFieldsRoundTrip : 4096 ≤ 4096 ∧ 128 ≤ 128 ∧ 8192 ≤ 8192 := by decide

theorem hyp_SendErrorsAreReported :
    62 < (List.replicate 63 (0 : Byte)).length ∧ (List.replicate 62 (0 : Byte)).length ≤ 62 ∧
    (0x01 = sender.cfg.localAddr ∧ sender.cfg.loopback = false) ∧ 0x02 ≠ sender.cfg.localAddr := by decide

theorem hyp_FrameWordsAreSent :
    (List.replicate 62 (0 : Byte)).length ≤ 62 ∧ 0x02 ≠ sender.cfg.localAddr ∧ sender.cfg.integrity = false ∧
    (integ sender).cfg.integrity = true ∧
    ({ sender with cfg := { sender.cfg with loopback := true } } : State).cfg.loopback = true := by decide

theorem hyp_TxMessageFailsOnlyToSelf :
    (0x01 = sender.cfg.localAddr ∧ sender.cfg.loopback = false) ∧ 0x02 ≠ sender.cfg.localAddr := by decide

theorem hyp_FrameRoundTrip : ∃ ws : List Symbol,
    exec (.txFrame State.reset.cfg.localAddr [1, 2, 3]) sender =
      .next { sender with out := .frame (.words ws), label := .none } ∧
    sender.cfg.integrity = State.reset.cfg.integrity ∧ sender.cfg.checkSel = State.reset.cfg.checkSel ∧
    [(1 : Byte), 2, 3].length ≤ (limited 3 State.reset).cfg.lenLimit.toNat := ⟨_, rfl, rfl, rfl, by decide⟩

theorem hyp_FrameRoundTrip_integrity : ∃ ws : List Symbol,
    exec (.txFrame 0x02 (List.replicate 62 0)) (integ sender) =
      .next { integ sender with out := .frame (.words ws), label := .none } ∧
    (integ sender).cfg.integrity = (integ State.reset).cfg.integrity ∧
    (integ sender).cfg.checkSel = (integ State.reset).cfg.checkSel ∧
    (List.replicate 62 (0 : Byte)).length ≤ (integ State.reset).cfg.lenLimit.toNat := ⟨_, rfl, rfl, rfl, by decide⟩

theorem hyp_MessageArrivesOverAFrame : ∃ ws : List Symbol,
    exec (.txMessage State.reset.cfg.localAddr (.updateRequest 7)) sender =
      .next { sender with out := .frame (.words ws), label := .none } ∧
    sender.cfg.integrity = State.reset.cfg.integrity ∧ sender.cfg.checkSel = State.reset.cfg.checkSel ∧
    kindLength .updateRequest ≤ (limited 5 State.reset).cfg.lenLimit.toNat := ⟨_, rfl, rfl, rfl, by decide⟩

theorem hyp_LaterMessageOverwrites : ∃ ws₁ ws₂ : List Symbol,
    exec (.txMessage State.reset.cfg.localAddr (.updateRequest 1)) sender =
      .next { sender with out := .frame (.words ws₁), label := .none } ∧
    exec (.txMessage State.reset.cfg.localAddr (.updateRequest 2)) sender =
      .next { sender with out := .frame (.words ws₂), label := .none } ∧
    sender.cfg.integrity = State.reset.cfg.integrity ∧ sender.cfg.checkSel = State.reset.cfg.checkSel ∧
    kindLength .updateRequest ≤ State.reset.cfg.lenLimit.toNat := ⟨_, _, rfl, rfl, rfl, rfl, by decide⟩

theorem hyp_CheckBytesAreDroppedWhenOff : ∃ ws : List Symbol,
    exec (.txMessage State.reset.cfg.localAddr .discoveryAck) (integ sender) =
      .next { integ sender with out := .frame (.words ws), label := .none } ∧
    (integ sender).cfg.integrity = true ∧ State.reset.cfg.integrity = false ∧
    kindLength .discoveryAck ≤ (limited 1 State.reset).cfg.lenLimit.toNat := ⟨_, rfl, rfl, rfl, by decide⟩

theorem hyp_ResetRestoresTheFields : Cfg.default.wf = true ∧ sender.cfg.wf = true ∧
    ({ Cfg.default with lenLimit := 0 } : Cfg).wf = true := by decide

theorem hyp_ResetNeedsALegalConfiguration :
    62 < ({ Cfg.default with lenLimit := 63 } : Cfg).lenLimit.toNat ∧ Cfg.default.lenLimit.toNat = 62 ∧
    (({ Cfg.default with role := .master } : Cfg).role = .master ∧
      ({ Cfg.default with role := .master } : Cfg).localAddr ≠ Cfg.default.masterAddress) ∧
    (({ Cfg.default with localAddr := 0x01 } : Cfg).role = .slave ∧
      ({ Cfg.default with localAddr := 0x01 } : Cfg).localAddr = Cfg.default.masterAddress) := by decide

theorem hyp_PortsShowTheState :
    ∀ m ∈ [Message.discoveryRequest, .discoveryAck, .updateRequest 0xFFFFFFFF, .solenoidUpdate 0,
      .broadcast #v[0, 1, 2, 3, 4, 5, 6, 7, 8, 9]],
    ({ State.reset with mailbox := some m } : State).mailbox = some m := by decide

theorem hyp_DecodeOfEncode :
    (Instr.start 0x02).wf .atReset = true ∧ (Instr.rxLenOk 62).wf lenPos.ctx = true ∧
    (Instr.rxPayload 0xFF).wf lastOf62.ctx = true ∧ (Instr.decUnrecognized80 0x7F (List.replicate 61 0)).wf .atReset = true ∧
    (Instr.reset .default).wf .atReset = true ∧ (Instr.solenoid 0xFFF 0x7F 0x1FFF).wf .atReset = true := by decide

theorem hyp_EncodeOfDecode : decode .atReset (.word9 511) = .ok (.foreignAddr 0xFF) ∧
    decode .atReset (.msgEnc [0x02]) = .ok .encDiscoveryAck := by decide

theorem hyp_StepRunsTheDecodedInstruction :
    fetch { State.reset with pending := [[.word9 0x102]] } = some (.word9 0x102, State.reset) ∧
    decode State.reset.ctx (.word9 0x102) = .ok (.start 0x02) ∧
    fetch { State.reset with pending := [[.word9 512]] } = some (.word9 512, State.reset) ∧
    decode State.reset.ctx (.word9 512) = .bad .wordTooWide := ⟨rfl, by decide, rfl, by decide⟩

theorem hyp_RequestsAreSerialised :
    ({ State.reset with pending := [[.poll]] } : State).pending = [.poll] :: [] ∧
    ({ State.reset with pending := [[.poll, .ingest 1]] } : State).pending = (.poll :: .ingest 1 :: []) :: [] ∧
    State.reset.pending = [] := ⟨rfl, rfl, rfl⟩

theorem hyp_StepKeepsTheInvariant : Machine.Inv State.reset ∧ ∃ t, step State.reset = .next t := ⟨inv_reset, _, rfl⟩

theorem hyp_StepKeepsTheInvariant_word :
    let s : State := { lastOf62 with pending := [[.word9 0x0FF]] }
    Machine.Inv s ∧ ∃ t, step s = .next t := ⟨by constructor <;> decide, _, rfl⟩

theorem hyp_EveryOperationCompletes :
    (Machine.Inv (done1 0x01) ∧ Instr.decodeStore.wf (done1 0x01).ctx = true ∧ (done1 0x01).rxState = .completed) ∧
    (Machine.Inv (integ (at_ .receiving true 1 1)) ∧ (Instr.rxCheck 0).wf (integ (at_ .receiving true 1 1)).ctx = true) ∧
    (Machine.Inv lastOf62 ∧ (Instr.rxPayload 0).wf lastOf62.ctx = true) ∧
    (Machine.Inv lenPos ∧ (Instr.rxLenReject 63).wf lenPos.ctx = true) :=
  ⟨⟨inv_done1, by decide, rfl⟩, ⟨inv_check, by decide⟩, ⟨inv_lastOf62, by decide⟩, inv_lenPos, by decide⟩

/-- Two states that differ in a stale byte and in the stale check byte. -/
theorem hyp_StaleBytesAreNeverSeen :
    let s := at_ .receiving true 3 1
    let t : State := { s with buf := [(1, 0xEE)], ckLo := 0x77 }
    Machine.Inv s ∧ Machine.Inv t ∧ SameButStale s t ∧ Instr.data 0x05 ≠ .dataRead ∧ ∃ s', exec (.data 0x05) s = .next s' := by
  refine ⟨by constructor <;> decide, by constructor <;> decide, ?_, by decide, _, rfl⟩
  constructor <;> decide

theorem hyp_OnlyResetChangesTheConfiguration : ∃ t, exec (.reset sender.cfg) State.reset = .next t := ⟨_, rfl⟩

theorem hyp_ErrorIsLeftByStartOrReset :
    (at_ .error false 0 0).rxState = .error ∧ (done1 0x01).rxState = .completed ∧
    (∃ t, exec (.start 0x02) (at_ .error false 0 0) = .next t) ∧ (∃ t, exec (.data 0x01) (done1 0x01) = .next t) ∧
    ∃ t, exec (.reset .default) (done1 0x01) = .next t := ⟨rfl, rfl, ⟨_, rfl⟩, ⟨_, rfl⟩, _, rfl⟩

end Sys2Proof.Tests
end

section
/-! What a step is when a request is at hand, by the decoder's answer (spec/00_scope.md R12). -/

namespace Sys2Proof.Machine

variable {s t : State} {q : Request}

theorem step_of_decode_ok {i : Instr} (hf : fetch s = some (q, t)) (hd : decode t.ctx q = .ok i) :
    step s = exec i t := by
  simp only [step, hf, hd]

theorem step_of_decode_bad {e : BadRequest} (hf : fetch s = some (q, t)) (hd : decode t.ctx q = .bad e) :
    step s = .refused (.badRequest e) := by
  simp only [step, hf, hd]

end Sys2Proof.Machine

/-- Settles O53, by the two answers the decoder can give to the fetched request. -/
theorem stepRunsTheDecodedInstruction : Obligations.StepRunsTheDecodedInstruction := by
  intro s t q hf
  constructor
  · intro i hd
    exact Sys2Proof.Machine.step_of_decode_ok hf hd
  · intro e hd
    exact Sys2Proof.Machine.step_of_decode_bad hf hd

end

section
/-! The invariant of 10_state R38 operation by operation. The clauses that do not speak of `rxState` are kept apart
(`RegInv`): they hold between the two halves of a Receiver case, where the state is not yet completed. -/

namespace Sys2Proof.Machine

variable {s t : State}

/-- The clauses of `Inv` on the configuration, the buffer, the length, the count and the check bytes. -/
structure RegInv (s : State) : Prop where
  bootCfg     : s.cfg.wf = true
  bufWf       : Memory.wf s.buf = true
  lengthPhase : s.lenValid = false → s.count = 0 ∧ s.ckCount = 0 ∧ s.declLen = 0
  lengthBound : s.lenValid = true →
    s.declLen.toNat ≤ s.cfg.lenLimit.toNat ∧ s.cfg.lenLimit.toNat ≤ maxDataLen ∧ s.count.val ≤ s.declLen.toNat
  checkPhase  : s.ckCount ≠ 0 → s.cfg.integrity = true ∧ s.lenValid = true ∧ s.count.val = s.declLen.toNat

theorem Inv.regs (h : Inv s) : RegInv s :=
  ⟨h.bootCfg, h.bufWf, h.lengthPhase, h.lengthBound, h.checkPhase⟩

/-- A configuration RESET accepts has `LEN_LIMIT` at most 62 (10_state R41). -/
theorem lenLimit_le_of_wf {c : Cfg} (h : c.wf = true) : c.lenLimit.toNat ≤ maxDataLen := by
  rw [Cfg.wf, Bool.and_eq_true, decide_eq_true_eq] at h
  exact h.1

/-- The byte count after a store below 62: the counter does not wrap. -/
theorem stored_count_val (h : s.count.val < bufSize) (m : Mem) : (s.stored m).count.val = s.count.val + 1 :=
  Nat.mod_eq_of_lt (Nat.succ_lt_succ h)

/-! ### Operations outside the Receiver -/

theorem Inv.finish (h : Inv s) (o : Output) (l : Label) : Inv (s.finish o l) :=
  ⟨h.bootCfg, h.bufWf, h.lengthPhase, h.lengthBound, h.checkPhase, h.completed, h.receiving⟩

theorem Inv.setMailbox (h : Inv s) (m : Option Message) : Inv (s.setMailbox m) :=
  ⟨h.bootCfg, h.bufWf, h.lengthPhase, h.lengthBound, h.checkPhase, h.completed, h.receiving⟩

theorem Inv.setPending (h : Inv s) (ps : List (List Request)) (n : Nat) : Inv (s.setPending ps n) :=
  ⟨h.bootCfg, h.bufWf, h.lengthPhase, h.lengthBound, h.checkPhase, h.completed, h.receiving⟩

/-- RESET needs only the buffer's form, whatever else the state held (70_reset R240). -/
theorem Inv.restart {c : Cfg} (hc : c.wf = true) (hb : Memory.wf s.buf = true) : Inv (s.restart c) where
  bootCfg := hc
  bufWf := hb
  lengthPhase _ := ⟨rfl, rfl, rfl⟩
  lengthBound hl := nomatch hl
  checkPhase hk := absurd rfl hk
  completed hr := nomatch hr
  receiving hr := nomatch hr

/-! ### The registers through the Receiver's operations -/

theorem RegInv.acceptLength (h : RegInv s) (hl : s.lenValid = false) {b : Byte}
    (hb : b.toNat ≤ s.cfg.lenLimit.toNat) : RegInv (s.acceptLength b) := by
  obtain ⟨hc, hk, -⟩ := h.lengthPhase hl
  exact {
    bootCfg := h.bootCfg
    bufWf := h.bufWf
    lengthPhase := nofun
    lengthBound := fun _ => ⟨hb, lenLimit_le_of_wf h.bootCfg, by simp [hc]⟩
    checkPhase := fun hne => absurd hk hne }

/-- A payload byte is stored below the declared length only, so no check byte has been taken. -/
theorem RegInv.stored (h : RegInv s) (hl : s.lenValid = true) (hc : s.count.val < s.declLen.toNat) (b : Byte) :
    RegInv (s.stored (memWrite s.count.val b s.buf)) := by
  obtain ⟨hd, hm, -⟩ := h.lengthBound hl
  have hlt : s.count.val < bufSize := Nat.lt_of_lt_of_le hc (hd.trans hm)
  exact {
    bootCfg := h.bootCfg
    bufWf := wf_memWrite hlt b h.bufWf
    lengthPhase := fun hf => absurd (hl.symm.trans hf) Bool.noConfusion
    lengthBound := fun _ => ⟨hd, hm, (stored_count_val hlt _).trans_le hc⟩
    checkPhase := fun hk => absurd (h.checkPhase hk).2.2 hc.ne }

theorem RegInv.checkLow (h : RegInv s) (hi : s.cfg.integrity = true) (hl : s.lenValid = true)
    (hc : s.count.val = s.declLen.toNat) (b : Byte) : RegInv (s.checkLow b) :=
  ⟨h.bootCfg, h.bufWf, fun hf => absurd (hl.symm.trans hf) Bool.noConfusion, h.lengthBound, fun _ => ⟨hi, hl, hc⟩⟩

theorem RegInv.checkTaken (h : RegInv s) (hi : s.cfg.integrity = true) (hl : s.lenValid = true)
    (hc : s.count.val = s.declLen.toNat) : RegInv s.checkTaken :=
  ⟨h.bootCfg, h.bufWf, fun hf => absurd (hl.symm.trans hf) Bool.noConfusion, h.lengthBound, fun _ => ⟨hi, hl, hc⟩⟩

/-! ### From the registers to the invariant, by the Receiver's state -/

theorem RegInv.beginFrame (h : RegInv s) : Inv s.beginFrame where
  bootCfg := h.bootCfg
  bufWf := h.bufWf
  lengthPhase _ := ⟨rfl, rfl, rfl⟩
  lengthBound hl := nomatch hl
  checkPhase hk := absurd rfl hk
  completed hr := nomatch hr
  receiving _ hl := nomatch hl

theorem RegInv.enterError (h : RegInv s) : Inv s.enterError :=
  ⟨h.bootCfg, h.bufWf, h.lengthPhase, h.lengthBound, h.checkPhase, nofun, nofun⟩

/-- A frame may be complete once every declared byte is there. -/
theorem RegInv.complete (h : RegInv s) (hl : s.lenValid = true) (hc : s.count.val = s.declLen.toNat) :
    Inv s.complete :=
  ⟨h.bootCfg, h.bufWf, h.lengthPhase, h.lengthBound, h.checkPhase, fun _ => ⟨hl, hc⟩, nofun⟩

/-- A frame still in progress has a byte to come: of the payload, or of the check code. -/
theorem RegInv.inProgress (h : RegInv s) (hr : s.rxState = .receiving)
    (hc : s.count.val < s.declLen.toNat ∨
      (s.cfg.integrity = true ∧ s.count.val = s.declLen.toNat ∧ s.ckCount ≠ 2)) : Inv s :=
  ⟨h.bootCfg, h.bufWf, h.lengthPhase, h.lengthBound, h.checkPhase, fun hr' => (nomatch hr.symm.trans hr'), fun _ _ => hc⟩

/-! ### The shared operations keep the invariant -/

/-- A case rule where its dispatch selects it. -/
theorem Inv.after_rxEffect {c : RxCase} {b : Byte} {l : RxLabel} (h : Inv s) (hsel : rxSelect s.ctx b = some c)
    (heff : rxEffect c b s = .next (t, l)) : Inv t := by
  have hpos := rxSelect_eq_some hsel
  have hall := rxEffect_next heff
  cases c <;> simp only [State.ctx_rxState, State.ctx_lenValid, State.ctx_cfg, State.ctx_count, State.ctx_declLen]
    at hpos hall
  case lenReject => obtain ⟨rfl, -⟩ := hall; exact h.regs.enterError
  case lenOk =>
    obtain ⟨hr, hl, h0, hb⟩ := hpos
    obtain ⟨rfl, -⟩ := hall
    have hc : s.count = 0 := (h.lengthPhase hl).1
    have h0 : b.toNat ≠ 0 := fun hb0 => h0 (BitVec.eq_of_toNat_eq hb0)
    exact (h.regs.acceptLength hl hb).inProgress hr (.inl (by simp [hc]; omega))
  case lenZero =>
    obtain ⟨hr, hl, rfl⟩ := hpos
    obtain ⟨hc, hk, -⟩ := h.lengthPhase hl
    have hregs : RegInv (s.acceptLength 0x00) := h.regs.acceptLength hl (Nat.zero_le _)
    obtain ⟨hi, rfl, -⟩ | ⟨-, rfl, -⟩ := hall
    · exact hregs.inProgress hr (.inr ⟨hi, by simp [hc], by simp [hk]⟩)
    · exact hregs.complete rfl (by simp [hc])
  case payload =>
    obtain ⟨hr, hl, hc⟩ := hpos
    obtain ⟨hlt, hall⟩ := hall
    have hregs := h.regs.stored hl hc b
    have hcount := stored_count_val hlt (memWrite s.count.val b s.buf)
    obtain ⟨hlast, -, rfl, -⟩ | ⟨hmore, rfl, -⟩ := hall
    · exact hregs.complete hl (hcount.trans hlast)
    · refine hregs.inProgress hr ?_
      by_cases hlast : s.count.val + 1 = s.declLen.toNat
      · have hk : s.ckCount = 0 := by
          by_contra hk
          exact hc.ne (h.checkPhase hk).2.2
        exact .inr ⟨by simpa [hlast] using hmore, hcount.trans hlast, by simp [hk]⟩
      · exact .inl (by rw [hcount]; exact Nat.lt_of_le_of_ne hc hlast)
  case drop => obtain ⟨rfl, -⟩ := hall; exact h
  case check =>
    obtain ⟨hr, hl, hc, hi⟩ := hpos
    have hregs : RegInv s.checkTaken := h.regs.checkTaken hi hl hc
    obtain ⟨-, rfl, -⟩ | ⟨-, p, -, ⟨-, rfl, -⟩ | ⟨-, rfl, -⟩⟩ := hall
    · exact (h.regs.checkLow hi hl hc b).inProgress hr (.inr ⟨hi, hc, by simp⟩)
    · exact hregs.complete hl hc
    · exact hregs.enterError

theorem Inv.after_decodeStore {l : DecLabel} (h : Inv s) (hd : decodeStore s = .next (t, l)) : Inv t := by
  obtain ⟨m, rfl⟩ := decodeStore_mailbox hd
  exact h.setMailbox m

theorem Inv.after_completionTrigger {before : RxState} {l : DecLabel} (h : Inv s)
    (ht : completionTrigger before s = .next (t, l)) : Inv t := by
  obtain ⟨m, rfl⟩ := completionTrigger_mailbox ht
  exact h.setMailbox m

/-- Every form a next state can have. -/
theorem Inv.after_effect {i : Instr} (h : Inv s) (he : Effect i s t) : Inv t := by
  cases he with
  | pure o => exact h.finish ..
  | rx hc hu => exact (h.after_rxEffect hc hu).finish ..
  | word hc hu hv => exact ((h.after_rxEffect hc hu).after_completionTrigger hv).finish ..
  | start hi => exact h.regs.beginFrame.finish ..
  | trigger hv => exact (h.after_completionTrigger hv).finish ..
  | decode hc hv => exact (h.after_decodeStore hv).finish ..
  | poll hi => exact (h.setMailbox none).finish ..
  | reset hi hc => exact (Inv.restart hc h.bufWf).finish ..

theorem Inv.after_exec {i : Instr} (h : Inv s) (he : exec i s = .next t) : Inv t := h.after_effect (exec_effect he)

/-- Serving a request changes the input alone. -/
theorem Inv.after_fetch {r : Request} (h : Inv s) (hf : fetch s = some (r, t)) : Inv t := by
  obtain ⟨ps, n, rfl⟩ := fetch_next hf
  exact h.setPending ps n

end Sys2Proof.Machine

open Sys2Proof Sys2Proof.Machine

/-- Settles O56: a step takes a request off the input and runs one instruction, and both keep the invariant. -/
theorem stepKeepsTheInvariant : Obligations.StepKeepsTheInvariant := by
  intro s t h hs
  obtain ⟨-, rfl⟩ | ⟨r, u, i, hf, -, he⟩ := step_next hs
  · exact h
  · exact (h.after_fetch hf).after_exec he

/-- Settles O55: the state after power-on is one that RESET with the default configuration leaves as it is. -/
theorem invariantAtReset : Obligations.InvariantAtReset :=
  Inv.restart (s := State.reset) (c := .default) (by decide) rfl

end

section
/-! Which operations write the buffer and the mailbox (10_state R35, R37). -/

namespace Sys2Proof.Machine

variable {s t : State}

/-! ### The buffer -/

/-- From `s` to `t` the buffer is at most written at `count`, in the payload phase, and the byte is counted. -/
def WritesOnlyAtCount (s t : State) : Prop :=
  (∀ j, j ≠ s.count.val → memRead j t.buf = memRead j s.buf) ∧
  (t.buf = s.buf ∨ (s.rxState = .receiving ∧ s.lenValid = true ∧ s.count.val < s.declLen.toNat ∧
    s.count.val < 62 ∧ t.count.val = s.count.val + 1))

theorem writesOnlyAtCount_of_buf_eq (h : t.buf = s.buf) : WritesOnlyAtCount s t :=
  ⟨fun j _ => congrArg (memRead j) h, .inl h⟩

theorem WritesOnlyAtCount.finish (h : WritesOnlyAtCount s t) (o : Output) (l : Label) :
    WritesOnlyAtCount s (t.finish o l) := h

theorem WritesOnlyAtCount.setMailbox (h : WritesOnlyAtCount s t) (m : Option Message) :
    WritesOnlyAtCount s (t.setMailbox m) := h

/-- Of the Receiver's cases only the payload case writes the buffer (41_receiver R125). -/
theorem rxEffect_writesOnlyAtCount {c : RxCase} {b : Byte} {l : RxLabel} (hsel : rxSelect s.ctx b = some c)
    (heff : rxEffect c b s = .next (t, l)) : WritesOnlyAtCount s t := by
  have hall := rxEffect_next heff
  cases c <;> simp only at hall
  case payload =>
    obtain ⟨hr, hl, hc⟩ := rxSelect_eq_some hsel
    obtain ⟨hlt, hall⟩ := hall
    have hother (j : Nat) (hj : j ≠ s.count.val) := memRead_memWrite_other hj b s.buf
    have hcount := stored_count_val hlt (memWrite s.count.val b s.buf)
    obtain ⟨-, -, rfl, -⟩ | ⟨-, rfl, -⟩ := hall <;> exact ⟨hother, .inr ⟨hr, hl, hc, hlt, hcount⟩⟩
  case lenReject => obtain ⟨rfl, -⟩ := hall; exact writesOnlyAtCount_of_buf_eq rfl
  case lenOk => obtain ⟨rfl, -⟩ := hall; exact writesOnlyAtCount_of_buf_eq rfl
  case lenZero => obtain ⟨-, rfl, -⟩ | ⟨-, rfl, -⟩ := hall <;> exact writesOnlyAtCount_of_buf_eq rfl
  case drop => obtain ⟨rfl, -⟩ := hall; exact writesOnlyAtCount_of_buf_eq rfl
  case check =>
    obtain ⟨-, rfl, -⟩ | ⟨-, p, -, ⟨-, rfl, -⟩ | ⟨-, rfl, -⟩⟩ := hall <;> exact writesOnlyAtCount_of_buf_eq rfl

/-- No form of a next state but RESET's, after which the buffer is unspecified (log entry 9), writes elsewhere. -/
theorem effect_writesOnlyAtCount {i : Instr} (hi : ∀ c, i ≠ .reset c) (he : Effect i s t) :
    WritesOnlyAtCount s t := by
  cases he with
  | pure o => exact writesOnlyAtCount_of_buf_eq rfl
  | rx hc hu => exact (rxEffect_writesOnlyAtCount hc hu).finish ..
  | word hc hu hv =>
    obtain ⟨m, rfl⟩ := completionTrigger_mailbox hv
    exact ((rxEffect_writesOnlyAtCount hc hu).setMailbox m).finish ..
  | start _ => exact writesOnlyAtCount_of_buf_eq rfl
  | trigger hv =>
    obtain ⟨m, rfl⟩ := completionTrigger_mailbox hv
    exact writesOnlyAtCount_of_buf_eq rfl
  | decode _ hv =>
    obtain ⟨m, rfl⟩ := decodeStore_mailbox hv
    exact writesOnlyAtCount_of_buf_eq rfl
  | poll _ => exact writesOnlyAtCount_of_buf_eq rfl
  | reset hr _ => exact absurd hr (hi _)

/-! ### The mailbox -/

/-- From `s` to `t` the mailbox is kept, or the frame is complete and the mailbox holds what `data()` decodes to. -/
def KeepsOrStoresMailbox (s t : State) : Prop :=
  t.mailbox = s.mailbox ∨
    (t.rxState = .completed ∧ ∃ m, t.mailbox = some m ∧ msgDecode t.cfg.excessPolicy t.assembled = .ok m)

theorem KeepsOrStoresMailbox.finish (h : KeepsOrStoresMailbox s t) (o : Output) (l : Label) :
    KeepsOrStoresMailbox s (t.finish o l) := h

theorem decodeStore_keepsOrStores {d : DecLabel} (hr : s.rxState = .completed)
    (h : decodeStore s = .next (t, d)) : KeepsOrStoresMailbox s t := by
  obtain ⟨p, hp, ⟨m, hm, rfl, -⟩ | ⟨e, -, rfl, -⟩⟩ := decodeStore_next h
  · obtain ⟨-, rfl⟩ := payload_next hp
    exact .inr ⟨hr, m, rfl, hm⟩
  · exact .inl rfl

/-- The trigger fires in Completed only (42_parser R142). -/
theorem completionTrigger_keepsOrStores {before : RxState} {d : DecLabel}
    (h : completionTrigger before s = .next (t, d)) : KeepsOrStoresMailbox s t := by
  obtain ⟨hf, h⟩ | ⟨-, rfl, -⟩ := completionTrigger_next h
  · exact decodeStore_keepsOrStores (triggerFires_completed hf) h
  · exact .inl rfl

/-- The mailbox's writers, by the form of the next state. -/
theorem effect_mailbox {i : Instr} (he : Effect i s t) :
    KeepsOrStoresMailbox s t ∨ ((i = .poll ∨ ∃ c, i = .reset c) ∧ t.mailbox = none) := by
  cases he with
  | pure o => exact .inl (.inl rfl)
  | rx _ hu => exact .inl (.inl (rxEffect_frame hu).1)
  | word _ hu hv =>
    have hm := (rxEffect_frame hu).1
    have hstore := completionTrigger_keepsOrStores hv
    rw [KeepsOrStoresMailbox, hm] at hstore
    exact .inl hstore
  | start _ => exact .inl (.inl rfl)
  | trigger hv => exact .inl ((completionTrigger_keepsOrStores hv).finish ..)
  | decode hr hv => exact .inl ((decodeStore_keepsOrStores hr hv).finish ..)
  | poll hi => exact .inr ⟨.inl hi, rfl⟩
  | reset hi _ => exact .inr ⟨.inr ⟨_, hi⟩, rfl⟩

end Sys2Proof.Machine

open Sys2Proof Sys2Proof.Machine

/-- Settles O21, by the form of the next state: only the payload case writes, and only at `count`. -/
theorem bufferIsWrittenOnlyAtCount : Obligations.BufferIsWrittenOnlyAtCount := by
  intro i s t hi he
  exact effect_writesOnlyAtCount hi (exec_effect he)

/-- Settles O25, by the form of the next state: DECODE_STORE runs on a complete frame, POLL and RESET clear. -/
theorem mailboxHasThreeWriters : Obligations.MailboxHasThreeWriters := by
  intro i s t he
  obtain (hkeep | hstore) | ⟨hi | ⟨c, hi⟩, hnone⟩ := effect_mailbox (exec_effect he)
  · exact .inl hkeep
  · exact .inr (.inr (.inr hstore))
  · exact .inr (.inl ⟨hi, hnone⟩)
  · exact .inr (.inr (.inl ⟨c, hi, hnone⟩))

end

section
/-! RESET's check of the configuration (10_state R41), and the ports (10_state R42, R43). -/

namespace Sys2Proof

theorem checkCfg_lenLimit {c : Cfg} (h : maxDataLen < c.lenLimit.toNat) : checkCfg c = some .lenLimitTooLarge :=
  if_pos h

theorem checkCfg_bootAddress {c : Cfg} (hl : c.lenLimit.toNat ≤ maxDataLen) (hr : c.role = .master)
    (ha : c.localAddr ≠ c.masterAddress) : checkCfg c = some .bootAddress := by
  rw [checkCfg, if_neg (Nat.not_lt.2 hl), if_pos ⟨hr, ha⟩]

theorem checkCfg_slave {c : Cfg} (hl : c.lenLimit.toNat ≤ maxDataLen) (hr : c.role = .slave) : checkCfg c = none := by
  rw [checkCfg, if_neg (Nat.not_lt.2 hl), if_neg (by simp [hr])]

end Sys2Proof

namespace Sys2Proof.Machine

theorem execReset_of_none {c : Cfg} (h : checkCfg c = none) (s : State) :
    execReset c s = .next ((s.restart c).finish .nothing .reset) := by
  simp only [execReset, h]

theorem execReset_of_some {c : Cfg} {e : BadRequest} (h : checkCfg c = some e) (s : State) :
    execReset c s = .refused (.badRequest e) := by
  simp only [execReset, h]

theorem mboxPort_of_some {s : State} {m : Message} (h : s.mailbox = some m) :
    s.mboxPort = some (discriminant (kindOf m), mboxBody m) := by
  simp only [State.mboxPort, h, Option.map_some]

/-- Byte `k` of a Broadcast stands in bits `[8k+7:8k]` of the port (10_state R43). -/
theorem mboxBody_broadcast_byte (b : Vector Byte 10) (k : Nat) (hk : k < 10) :
    (mboxBody (.broadcast b)).extractLsb' (8 * k) 8 = b[k] := by
  unfold mboxBody
  interval_cases k <;>
    simp (disch := omega) only [BitVec.extractLsb'_append_eq_of_le, BitVec.extractLsb'_append_eq_of_add_le] <;>
    exact BitVec.extractLsb'_eq_self

end Sys2Proof.Machine

open Sys2Proof Sys2Proof.Machine

/-- Settles O47, by the three answers of the check that RESET makes. -/
theorem resetNeedsALegalConfiguration : Obligations.ResetNeedsALegalConfiguration := by
  intro s c
  refine ⟨fun hl => ?_, fun hl hr ha => ?_, fun hl hr => ?_⟩
  · exact execReset_of_some (checkCfg_lenLimit hl) s
  · exact execReset_of_some (checkCfg_bootAddress hl hr ha) s
  · exact ⟨_, execReset_of_none (checkCfg_slave hl hr) s, rfl⟩

/-- Settles O48: the fields of the fixed state `State.reset`. -/
theorem stateAfterReset : Obligations.StateAfterReset :=
  ⟨rfl, rfl, rfl, rfl, rfl, rfl, rfl⟩

/-- Settles O49: the status port by its two fields, the mailbox port by the kind of the message. -/
theorem portsShowTheState : Obligations.PortsShowTheState := by
  intro s
  refine ⟨?_, fun _ => rfl, mboxPort_of_some, mboxPort_of_some, fun _ => mboxPort_of_some, fun _ => mboxPort_of_some,
    fun b h => ⟨_, mboxPort_of_some h, mboxBody_broadcast_byte b⟩⟩
  cases hm : s.mailbox <;> cases hr : s.rxState <;> simp [State.statusPort, State.mboxValid, hm, hr, rxStatusCode]

end

section
/-! Non-interference: two states that differ only in stale bytes answer alike. The shared operations are followed one
by one; the invariant is what makes the bytes that `data()` and the check comparison read fresh ones. -/

namespace Sys2Proof.Machine

variable {s t : State} {α β : Type}

/-! ### Results that follow one another -/

/-- Whatever `r` answers, `r'` answers with a result in the relation `R`. -/
def Follows (R : α → α → Prop) (r r' : Res α) : Prop := ∀ a, r = .next a → ∃ a', r' = .next a' ∧ R a a'

theorem follows_next {R : α → α → Prop} {a a' : α} (h : R a a') : Follows R (.next a) (.next a') := by
  intro b hb
  cases hb
  exact ⟨a', rfl, h⟩

theorem follows_refused {R : α → α → Prop} (e : Refusal) (r : Res α) : Follows R (.refused e) r := nofun

theorem Follows.refl (r : Res α) : Follows Eq r r := fun a ha => ⟨a, ha, rfl⟩

theorem follows_andThen {R : α → α → Prop} {S : β → β → Prop} {r r' : Res α} {f f' : α → Res β}
    (hr : Follows R r r') (hf : ∀ a a', r = .next a → R a a' → Follows S (f a) (f' a')) :
    Follows S (andThen r f) (andThen r' f') := by
  intro b hb
  obtain ⟨a, ha, hb⟩ := andThen_eq_next hb
  obtain ⟨a', ha', haa'⟩ := hr a ha
  rw [ha']
  exact hf a a' ha haa' b hb

/-- States in `SameButStale`, with the same label. -/
def SameLabelled (p q : State × β) : Prop := SameButStale p.1 q.1 ∧ p.2 = q.2

/-! ### The operations over the state -/

namespace SameButStale

theorem ctx_eq (h : SameButStale s t) : s.ctx = t.ctx := by
  simp only [State.ctx, h.cfg, h.rxState, h.lenValid, h.declLen, h.count]

theorem finish (h : SameButStale s t) (o : Output) (l : Label) : SameButStale (s.finish o l) (t.finish o l) :=
  ⟨h.rxState, h.lenValid, h.declLen, h.count, h.ckCount, h.mailbox, h.cfg, rfl, rfl, h.pending, h.draws, h.bytes,
    h.lowByte⟩

theorem setMailbox (h : SameButStale s t) (m : Option Message) : SameButStale (s.setMailbox m) (t.setMailbox m) :=
  { h with mailbox := rfl }

theorem complete (h : SameButStale s t) : SameButStale s.complete t.complete := { h with rxState := rfl }

theorem enterError (h : SameButStale s t) : SameButStale s.enterError t.enterError := { h with rxState := rfl }

theorem acceptLength (h : SameButStale s t) (b : Byte) : SameButStale (s.acceptLength b) (t.acceptLength b) :=
  { h with lenValid := rfl, declLen := rfl }

/-- A new frame has no written byte yet, so every byte is stale. -/
theorem beginFrame (h : SameButStale s t) : SameButStale s.beginFrame t.beginFrame :=
  { h with
    rxState := rfl, lenValid := rfl, declLen := rfl, count := rfl, ckCount := rfl, bytes := nofun, lowByte := nofun }

theorem restart (h : SameButStale s t) (c : Cfg) : SameButStale (s.restart c) (t.restart c) :=
  { h with
    rxState := rfl, lenValid := rfl, declLen := rfl, count := rfl, ckCount := rfl, mailbox := rfl, cfg := rfl,
    bytes := nofun, lowByte := nofun }

theorem checkLow (h : SameButStale s t) (b : Byte) : SameButStale (s.checkLow b) (t.checkLow b) :=
  { h with ckCount := rfl, lowByte := fun _ => rfl }

/-- After the second check byte the first one is stale. -/
theorem checkTaken (h : SameButStale s t) : SameButStale s.checkTaken t.checkTaken :=
  { h with ckCount := rfl, lowByte := nofun }

/-- The byte stored at `count` is fresh, and those below it were. -/
theorem stored (h : SameButStale s t) (hlt : s.count.val < bufSize) (b : Byte) :
    SameButStale (s.stored (memWrite s.count.val b s.buf)) (t.stored (memWrite t.count.val b t.buf)) := by
  refine { h with count := congrArg (fun n : Fin 63 => Fin.ofNat 63 (n.val + 1)) h.count, bytes := fun i hi => ?_ }
  rw [stored_count_val hlt] at hi
  simp only [State.stored_buf, memRead_memWrite, ← h.count]
  split
  · rfl
  · exact h.bytes i (by omega)

/-! ### The shared operations -/

/-- Where every declared byte is there, `data()` reads no stale byte. -/
theorem payload_eq (h : SameButStale s t) (hc : s.count.val = s.declLen.toNat) : s.payload = t.payload := by
  unfold State.payload memLoad
  rw [← h.declLen, ← hc]
  split
  · exact congrArg _ (List.map_congr_left fun i hi => h.bytes i (List.mem_range.1 hi))
  · rfl

theorem follows_storePayload (h : SameButStale s t) (b : Byte) :
    Follows SameLabelled (storePayload b s) (storePayload b t) := by
  refine follows_andThen (R := fun m m' => SameButStale (s.stored m) (t.stored m')) (fun m hm => ?_)
    fun m m' _ hst => ?_
  · obtain ⟨hlt, rfl⟩ := memStore_next hm
    exact ⟨_, memStore_of_lt (h.count ▸ hlt) b t.buf, h.stored hlt b⟩
  · simp only [hst.count, hst.declLen, hst.cfg]
    split
    · exact follows_next ⟨hst.complete, rfl⟩
    · exact follows_next ⟨hst, rfl⟩

/-- The comparison reads the payload and, as the second check byte comes, the first one: both are fresh. -/
theorem follows_checkByte (h : SameButStale s t) (hc : s.count.val = s.declLen.toNat) (hk : s.ckCount ≠ 2)
    (b : Byte) : Follows SameLabelled (checkByte b s) (checkByte b t) := by
  unfold checkByte
  rw [← h.ckCount]
  by_cases hk0 : s.ckCount = 0
  · rw [if_pos hk0, if_pos hk0]
    exact follows_next ⟨h.checkLow b, rfl⟩
  · have hk1 : s.ckCount = 1 := by omega
    rw [if_neg hk0, if_neg hk0, h.payload_eq hc, h.lowByte hk1, h.cfg, h.declLen]
    refine follows_andThen (Follows.refl _) ?_
    rintro p _ - rfl
    split
    · exact follows_next ⟨h.checkTaken.complete, rfl⟩
    · exact follows_next ⟨h.checkTaken.enterError, rfl⟩

theorem follows_lenZero (h : SameButStale s t) : SameLabelled (lenZero s) (lenZero t) := by
  unfold lenZero
  rw [h.cfg]
  split
  · exact ⟨h.acceptLength _, rfl⟩
  · exact ⟨(h.acceptLength _).complete, rfl⟩

/-- A case rule where its dispatch selects it. -/
theorem follows_rxEffect (h : SameButStale s t) (hs : Inv s) {c : RxCase} {b : Byte}
    (hsel : rxSelect s.ctx b = some c) : Follows SameLabelled (rxEffect c b s) (rxEffect c b t) := by
  cases c
  case lenReject => exact follows_next ⟨h.enterError, rfl⟩
  case lenOk => exact follows_next ⟨h.acceptLength b, rfl⟩
  case lenZero => exact follows_next h.follows_lenZero
  case payload => exact h.follows_storePayload b
  case drop => exact follows_next ⟨h, rfl⟩
  case check =>
    obtain ⟨hr, hl, hc, -⟩ := rxSelect_eq_some hsel
    obtain hlt | ⟨-, -, hk⟩ := hs.receiving hr hl
    · exact absurd hc hlt.ne
    · exact h.follows_checkByte hc hk b

theorem follows_addToBuffer (h : SameButStale s t) (hs : Inv s) (b : Byte) :
    Follows SameLabelled (addToBuffer b s) (addToBuffer b t) := by
  unfold addToBuffer
  rw [← h.ctx_eq]
  split
  · exact h.follows_rxEffect hs ‹_›
  · exact follows_refused _ _

theorem follows_decodeStore (h : SameButStale s t) (hc : s.count.val = s.declLen.toNat) :
    Follows SameLabelled (decodeStore s) (decodeStore t) := by
  unfold decodeStore
  rw [h.payload_eq hc, h.cfg]
  refine follows_andThen (Follows.refl _) ?_
  rintro p _ - rfl
  split
  · exact follows_next ⟨h.setMailbox _, rfl⟩
  · exact follows_next ⟨h, rfl⟩

/-- The trigger decodes a complete frame only. -/
theorem follows_completionTrigger (h : SameButStale s t) (hs : Inv s) (before : RxState) :
    Follows SameLabelled (completionTrigger before s) (completionTrigger before t) := by
  have hfires : triggerFires before s = triggerFires before t := by simp only [triggerFires, h.cfg, h.rxState]
  unfold completionTrigger
  rw [← hfires]
  split
  · exact h.follows_decodeStore (hs.completed (triggerFires_completed ‹_›)).2
  · exact follows_next ⟨h, rfl⟩

/-! ### The ends of a step -/

/-- A step that ends with the label of its last operation. -/
theorem follows_finish {r r' : Res (State × β)} (hr : Follows SameLabelled r r') (f : β → Label) :
    Follows SameButStale (andThen r fun p => .next (p.1.finish .nothing (f p.2)))
      (andThen r' fun p => .next (p.1.finish .nothing (f p.2))) := by
  refine follows_andThen hr ?_
  rintro ⟨u, l⟩ ⟨u', _⟩ - ⟨hu, rfl⟩
  exact follows_next (hu.finish ..)

theorem follows_answer (h : SameButStale s t) {o o' : Output} (ho : o = o') :
    Follows SameButStale (answer s o) (answer t o') := by
  subst ho
  exact follows_next (h.finish ..)

theorem follows_runRxRow (h : SameButStale s t) (hs : Inv s) (c : RxCase) (b : Byte) :
    Follows SameButStale (runRxRow c b s) (runRxRow c b t) := by
  unfold runRxRow
  rw [← h.ctx_eq]
  split
  · exact follows_finish (h.follows_rxEffect hs ‹_›) .rx
  · exact follows_refused _ _

theorem follows_matchWord (h : SameButStale s t) : Follows SameButStale (matchWord s) (matchWord t) := by
  rw [matchWord_eq, matchWord_eq]
  exact follows_next (h.beginFrame.finish ..)

theorem follows_feedByte (h : SameButStale s t) (hs : Inv s) (b : Byte) :
    Follows SameButStale (feedByte b s) (feedByte b t) := by
  refine follows_andThen (h.follows_addToBuffer hs b) ?_
  rintro ⟨u, l⟩ ⟨u', _⟩ hu ⟨huu', rfl⟩
  obtain ⟨c, hc, hu⟩ := addToBuffer_next hu
  rw [h.rxState]
  exact follows_finish (huu'.follows_completionTrigger (hs.after_rxEffect hc hu) _) (.ingest l)

/-- Every instruction but `data()` called by itself (93 I3). -/
theorem follows_exec (h : SameButStale s t) (hs : Inv s) {i : Instr} (hi : i ≠ .dataRead) :
    Follows SameButStale (exec i s) (exec i t) := by
  cases i
  case dataRead => exact absurd rfl hi
  case start a =>
    simp only [exec, execStart, h.cfg]
    split
    · exact h.follows_matchWord
    · exact follows_refused _ _
  case foreignAddr a =>
    simp only [exec, execForeignAddr, h.cfg]
    split
    · exact follows_refused _ _
    · exact h.follows_feedByte hs a
  case data d => exact h.follows_feedByte hs d
  case ingest w =>
    simp only [exec, execIngest, ingest, h.cfg]
    split
    · split
      · exact h.follows_matchWord
      · exact h.follows_feedByte hs _
    · exact h.follows_feedByte hs _
  case addToBuffer b => exact follows_finish (h.follows_addToBuffer hs b) .rx
  case completionTrigger before => exact follows_finish (h.follows_completionTrigger hs before) .dec
  case decodeStore =>
    simp only [exec, execDecodeStore, ← h.rxState]
    split
    · exact follows_finish (h.follows_decodeStore (hs.completed ‹_›).2) .dec
    · exact follows_refused _ _
  case poll =>
    simp only [exec, execPoll, ← h.mailbox]
    exact follows_next ((h.setMailbox none).finish ..)
  case reset c =>
    simp only [exec, execReset]
    split
    · exact follows_next ((h.restart c).finish ..)
    · exact follows_refused _ _
  case rxLenReject b => exact h.follows_runRxRow hs .lenReject b
  case rxLenOk b => exact h.follows_runRxRow hs .lenOk b
  case rxLenZero => exact h.follows_runRxRow hs .lenZero 0x00
  case rxPayload b => exact h.follows_runRxRow hs .payload b
  case rxDrop b => exact h.follows_runRxRow hs .drop b
  case rxCheck b => exact h.follows_runRxRow hs .check b
  -- what is left is pure: an answer that depends on the operands and the configuration alone
  all_goals exact h.follows_answer (by simp only [h.cfg])

end SameButStale

end Sys2Proof.Machine

open Sys2Proof Sys2Proof.Machine

/-- Settles O58: the meaning of an instruction in one state is followed in the other, operation by operation. -/
theorem staleBytesAreNeverSeen : Obligations.StaleBytesAreNeverSeen := by
  intro s t s' i hs _ hst hi he
  exact hst.follows_exec hs hi s' he

end

section
/-! Accesses beyond the buffer fault, with no wrap and no clip (20_memory R61). -/

namespace Sys2Proof.Machine

variable {s : State}

theorem memLoad_of_gt {n : Nat} (h : bufSize < n) (m : Mem) : memLoad n m = .fault (.bufIndex bufSize) :=
  if_neg (Nat.not_le.2 h)

theorem payload_of_gt (h : bufSize < s.declLen.toNat) : s.payload = .fault (.bufIndex bufSize) :=
  memLoad_of_gt h s.buf

theorem execDataRead_of_fault {e : Fault} (h : s.payload = .fault e) : execDataRead s = .fault e := by
  rw [execDataRead, h, andThen_fault]

theorem storePayload_of_ge (h : bufSize ≤ s.count.val) (b : Byte) :
    storePayload b s = .fault (.bufIndex s.count.val) := by
  rw [storePayload, memStore_of_ge h, andThen_fault]

/-- A fault of a case rule is the fault of its row, where the dispatch selects the row. -/
theorem runRxRow_of_fault {c : RxCase} {b : Byte} {e : Fault} (hsel : rxSelect s.ctx b = some c)
    (heff : rxEffect c b s = .fault e) : runRxRow c b s = .fault e := by
  rw [runRxRow_of_select hsel, heff, finishRx, andThen_fault]

end Sys2Proof.Machine

open Sys2Proof Sys2Proof.Machine

/-- Settles O19: `data()` of more than 62 bytes faults at the first index beyond the buffer, and the payload case at
`count`, where it would store the byte. -/
theorem indexBeyondTheBufferFaults : Obligations.IndexBeyondTheBufferFaults := by
  intro s b
  refine ⟨fun hlong => execDataRead_of_fault (payload_of_gt hlong), fun hr hl hlt hfull => ?_⟩
  have hsel : rxSelect s.ctx b = some .payload := rxSelect_payload hr hl hlt b
  have hfault : rxEffect .payload b s = .fault (.bufIndex s.count.val) := storePayload_of_ge hfull.ge b
  rw [hfull] at hfault
  exact runRxRow_of_fault hsel hfault

end

section
/-! The encoder and the decoder are inverse (spec/30_encoding.md R90, R91). Decode of encode goes row by row; encode of
decode goes format by format, each with two facts: what the format decodes to is well formed, and it encodes back. -/

namespace Sys2Proof.Laws.RoundTrip

/-- The rows together. -/
theorem statement_all : ∀ i : Instr, Statement i
  | .start a               => start a
  | .foreignAddr a         => foreignAddr a
  | .data d                => data d
  | .rxLenReject b         => rxLenReject b
  | .rxLenOk b             => rxLenOk b
  | .rxLenZero             => rxLenZero
  | .rxPayload b           => rxPayload b
  | .rxDrop b              => rxDrop b
  | .rxCheck b             => rxCheck b
  | .decBroadcast p        => decBroadcast p
  | .decDiscoveryRequest p => decDiscoveryRequest p
  | .decDiscoveryAck p     => decDiscoveryAck p
  | .decUpdateRequest p    => decUpdateRequest p
  | .decSolenoidUpdate p   => decSolenoidUpdate p
  | .decUnrecognized05 p   => decUnrecognized05 p
  | .decUnrecognized06 d p => decUnrecognized06 d p
  | .decUnrecognized08 d p => decUnrecognized08 d p
  | .decUnrecognized10 d p => decUnrecognized10 d p
  | .decUnrecognized20 d p => decUnrecognized20 d p
  | .decUnrecognized40 d p => decUnrecognized40 d p
  | .decUnrecognized80 d p => decUnrecognized80 d p
  | .decEmpty              => decEmpty
  | .encBroadcast b        => encBroadcast b
  | .encDiscoveryRequest   => encDiscoveryRequest
  | .encDiscoveryAck       => encDiscoveryAck
  | .encUpdateRequest v    => encUpdateRequest v
  | .encSolenoidUpdate v   => encSolenoidUpdate v
  | .ingest w              => ingest w
  | .poll                  => poll
  | .reset c               => reset c
  | .txFrame a p           => txFrame a p
  | .txMessage a m         => txMessage a m
  | .msgEncode m           => msgEncode m
  | .wordDecode w          => wordDecode w
  | .wordEncodeAddr a      => wordEncodeAddr a
  | .wordEncodeData b      => wordEncodeData b
  | .addToBuffer b         => addToBuffer b
  | .dataRead              => dataRead
  | .completionTrigger r   => completionTrigger r
  | .decodeStore           => decodeStore
  | .msgDecode p           => msgDecode p
  | .checkLen p n          => checkLen p n
  | .solenoid i o r        => solenoid i o r

end Sys2Proof.Laws.RoundTrip

namespace Sys2Proof

/-! ### WORD9 and the 9-bit port -/

/-- The port takes a word whose 9 bits are the number presented. -/
theorem onPort9_eq_ok {w : Nat} {k : Symbol → Instr} {i : Instr} (h : onPort9 w k = .ok i) :
    ∃ v : Symbol, v.toNat = w ∧ k v = i := by
  unfold onPort9 at h
  split at h
  · next hw => exact ⟨BitVec.ofNat 9 w, Nat.mod_eq_of_lt hw, Decoded.ok.inj h⟩
  · cases h

theorem wf_decodeWord9 (x : Ctx) (w : Symbol) : (decodeWord9 x.cfg.localAddr w).wf x = true := by
  unfold decodeWord9
  split
  · split
    · next ha => exact beq_iff_eq.2 ha
    · next ha => exact bne_iff_ne.2 ha
  · rfl

theorem encode_decodeWord9 (a : Byte) (w : Symbol) : encode (decodeWord9 a w) = .word9 w.toNat := by
  obtain ⟨b, hd, rfl⟩ | ⟨b, hd, rfl⟩ := wordDecode_cases w
  · simp only [decodeWord9, hd]
    split <;> rfl
  · simp only [decodeWord9, hd, encode]

/-! ### RXBYTE -/

theorem wf_rxCase_instr {x : Ctx} {b : Byte} {c : RxCase} (h : rxSelect x b = some c) : (c.instr b).wf x = true := by
  have hpos := Machine.rxSelect_eq_some h
  cases c <;> simp_all [RxCase.instr, Instr.wf, Ctx.lengthPhase, Ctx.payloadPhase, Ctx.checkPhase]

theorem encode_rxCase_instr {x : Ctx} {b : Byte} {c : RxCase} (h : rxSelect x b = some c) :
    encode (c.instr b) = .rxByte b := by
  cases c
  case lenZero => rw [(Machine.rxSelect_eq_some h).2.2]; rfl
  all_goals rfl

/-! ### DISC8 -/

theorem wf_decodePayload (x : Ctx) : ∀ p : List Byte, (decodePayload p).wf x = true
  | []     => rfl
  | d :: p => wf_decodeDisc x d p

theorem encode_decodePayload : ∀ p : List Byte, encode (decodePayload p) = .disc8 p
  | []     => rfl
  | d :: p => encode_decodeDisc d p

/-! ### MSGENC -/

theorem wf_decodeEnc {e : List Byte} {i : Instr} (h : decodeEnc e = some i) (x : Ctx) : i.wf x = true := by
  unfold decodeEnc at h
  split at h
  case h_4 => cases h
  all_goals split_ifs at h <;> cases h <;> rfl

theorem encode_decodeEnc {e : List Byte} {i : Instr} (h : decodeEnc e = some i) : encode i = .msgEnc e := by
  unfold decodeEnc at h
  split at h
  case h_1 | h_3 => split_ifs at h <;> cases h <;> subst_vars <;> rfl
  case h_2 => split_ifs at h <;> cases h <;> subst_vars <;> rw [encode, bytesLe32_le32]
  case h_4 => cases h

/-! ### SOLENOID -/

theorem encode_solenoid_ofNat {i o r : Nat} (hi : i < 2 ^ 12) (ho : o < 2 ^ 7) (hr : r < 2 ^ 13) :
    encode (.solenoid (BitVec.ofNat 12 i) (BitVec.ofNat 7 o) (BitVec.ofNat 13 r)) = .solenoid i o r := by
  simp only [encode, BitVec.toNat_ofNat, Nat.mod_eq_of_lt hi, Nat.mod_eq_of_lt ho, Nat.mod_eq_of_lt hr]

/-! ### Any request -/

theorem wf_and_encode_of_decode {x : Ctx} {q : Request} {i : Instr} (h : decode x q = .ok i) :
    i.wf x = true ∧ encode i = q := by
  cases q with
  | word9 w =>
    obtain ⟨v, rfl, rfl⟩ := onPort9_eq_ok h
    exact ⟨wf_decodeWord9 x v, encode_decodeWord9 x.cfg.localAddr v⟩
  | rxByte b =>
    simp only [decode] at h
    split at h
    · next hc => cases h; exact ⟨wf_rxCase_instr hc, encode_rxCase_instr hc⟩
    · cases h
  | disc8 p => cases h; exact ⟨wf_decodePayload x p, encode_decodePayload p⟩
  | msgEnc e =>
    simp only [decode] at h
    split at h
    · next he => cases h; exact ⟨wf_decodeEnc he x, encode_decodeEnc he⟩
    · cases h
  | ingest w => obtain ⟨v, rfl, rfl⟩ := onPort9_eq_ok h; exact ⟨rfl, rfl⟩
  | wordDecode w => obtain ⟨v, rfl, rfl⟩ := onPort9_eq_ok h; exact ⟨rfl, rfl⟩
  | reset c =>
    simp only [decode] at h
    split at h
    · next hc => cases h; exact ⟨(checkCfg_eq_none c).1 hc, rfl⟩
    · cases h
  | solenoid n o r =>
    simp only [decode] at h
    split at h
    · next hb => cases h; exact ⟨rfl, encode_solenoid_ofNat hb.1 hb.2.1 hb.2.2⟩
    · cases h
  | statusWrite v => cases h
  | configChange c => cases h
  | _ => cases h; exact ⟨rfl, rfl⟩

end Sys2Proof

open Sys2Proof

/-- Settles O51, row by row. -/
theorem decodeOfEncode : Obligations.DecodeOfEncode := fun x i => Laws.RoundTrip.statement_all i x

/-- Settles O52, by the format of the request. -/
theorem encodeOfDecode : Obligations.EncodeOfDecode := fun _ _ _ => wf_and_encode_of_decode

/-- Settles O50: each row's word is what the row encodes to, so decode of encode applies; the 10-bit word is compared
with the port's width. -/
theorem wordsDecodeToTheirRows : Obligations.WordsDecodeToTheirRows :=
  ⟨decodeOfEncode .atReset (.start 0x02) rfl,
   decodeOfEncode .atReset (.foreignAddr 0x03) rfl,
   decodeOfEncode .atReset (.data 0xFF) rfl,
   rfl,
   decodeOfEncode .atReset (.rxDrop 0x55) rfl,
   decodeOfEncode .atReset (.decUpdateRequest [0x78, 0x56, 0x34, 0x12]) rfl,
   decodeOfEncode .atReset (.decUnrecognized06 1 []) rfl,
   decodeOfEncode .atReset (.decUnrecognized80 1 []) rfl,
   decodeOfEncode .atReset (.encSolenoidUpdate 0x00000FFF) rfl⟩

end

section
/-! The selection conditions of the two address-word rows (the model's choice, notes/assumptions/12.md). -/

namespace Sys2Proof.Machine

variable {s : State} {a : Byte}

theorem exec_start_of_ne (h : a ≠ s.cfg.localAddr) : exec (.start a) s = .refused .notSelected :=
  if_neg h

theorem exec_foreignAddr_of_eq (h : a = s.cfg.localAddr) : exec (.foreignAddr a) s = .refused .notSelected :=
  if_pos h

end Sys2Proof.Machine

open Sys2Proof.Machine

/-- Settles O9: each row is refused where its condition on the address fails. -/
theorem wordRowsNeedTheirAddress : Obligations.WordRowsNeedTheirAddress := fun _ _ =>
  ⟨exec_start_of_ne, exec_foreignAddr_of_eq⟩

end

section
/-! The word codec (spec/40_word_codec.md): the operations are combinational, and bit 8 alone tells an address word
from a data word. -/

namespace Sys2Proof

/-- WORD_DECODE in the spelling of R110, which names the bit `w[8]`. -/
theorem wordDecode_eq_getElem (w : Symbol) :
    wordDecode w = if w[8] then .addr (w.extractLsb' 0 8) else .data (w.extractLsb' 0 8) := by
  rw [wordDecode, BitVec.getLsbD_eq_getElem (by decide)]

/-- WORD_ENCODE_ADDR in the spelling of R111, which shifts the marker into bit 8. -/
theorem wordEncodeAddr_eq_shift (a : Byte) : wordEncodeAddr a = (1#9 <<< 8) ||| a.setWidth 9 := by
  have hmarker : 1#9 <<< 8 = 0x100#9 := by decide
  rw [hmarker, wordEncodeAddr]

/-- Every word is the encoding of what it decodes to. -/
theorem wordEncode_of_wordDecode (w : Symbol) :
    (∃ a, wordDecode w = .addr a ∧ wordEncodeAddr a = w) ∨ (∃ b, wordDecode w = .data b ∧ wordEncodeData b = w) :=
  (wordDecode_cases w).imp
    (fun ⟨a, hdec, henc⟩ => ⟨a, hdec, henc.symm⟩)
    (fun ⟨b, hdec, henc⟩ => ⟨b, hdec, henc.symm⟩)

namespace Machine

theorem exec_wordDecode (w : Symbol) (s : State) :
    exec (.wordDecode w) s = .next (s.finish (.word (wordDecode w)) .none) := rfl

theorem exec_wordEncodeAddr (a : Byte) (s : State) :
    exec (.wordEncodeAddr a) s = .next (s.finish (.symbol (wordEncodeAddr a)) .none) := rfl

theorem exec_wordEncodeData (b : Byte) (s : State) :
    exec (.wordEncodeData b) s = .next (s.finish (.symbol (wordEncodeData b)) .none) := rfl

end Machine

end Sys2Proof

open Sys2Proof Sys2Proof.Machine

/-- Settles O1: the decoded word is returned, and `finish` writes only what the step returns. -/
theorem wordDecodeReadsTheMarker : Obligations.WordDecodeReadsTheMarker := by
  intro w s
  rw [exec_wordDecode, wordDecode_eq_getElem, State.finish]

/-- Settles O2: each encoder's word is returned, and `finish` writes only what the step returns. -/
theorem wordEncodersPlaceTheMarker : Obligations.WordEncodersPlaceTheMarker := by
  intro a b s
  constructor
  · rw [exec_wordEncodeAddr, wordEncodeAddr_eq_shift, State.finish]
  · rw [exec_wordEncodeData, wordEncodeData, State.finish]

/-- Settles O3: decode of encode for both classes, encode of decode for every word, and the encoders' disjointness,
since the two classes decode differently. -/
theorem wordCodecLaws : Obligations.WordCodecLaws :=
  ⟨wordDecode_wordEncodeAddr, wordDecode_wordEncodeData, wordEncode_of_wordDecode,
   fun a b => (wordEncodeData_ne_addr a b).symm⟩

end

section
/-! The Receiver's rows run by themselves (spec/41_receiver.md R121 to R126): where the dispatch selects a row it does
what its case rule says, and where it does not the row is refused. -/

namespace Sys2Proof.Machine

variable {s u : State} {b : Byte} {c : RxCase} {l : RxLabel}

/-! ### A row where the dispatch selects it -/

/-- RX_LEN_ZERO carries no byte: it is selected for the byte 0 alone. -/
theorem exec_instr_of_select (hsel : rxSelect s.ctx b = some c) : exec (c.instr b) s = finishRx (rxEffect c b s) := by
  cases c
  case lenZero =>
    obtain ⟨-, -, rfl⟩ := rxSelect_eq_some hsel
    exact runRxRow_of_select hsel
  all_goals exact runRxRow_of_select hsel

theorem exec_instr_of_effect (hsel : rxSelect s.ctx b = some c) (heff : rxEffect c b s = .next (u, l)) :
    exec (c.instr b) s = .next (u.finish .nothing (.rx l)) := by
  rw [exec_instr_of_select hsel, heff, finishRx, andThen_next]

theorem exec_addToBuffer_of_select (hsel : rxSelect s.ctx b = some c) :
    exec (.addToBuffer b) s = exec (c.instr b) s := by
  rw [exec_instr_of_select hsel, exec, execAddToBuffer, addToBuffer_of_select hsel]

/-! ### The case rules that branch -/

theorem lenZero_of_integrity_off (h : s.cfg.integrity = false) :
    lenZero s = ((s.acceptLength 0).complete, .done) := by
  simp only [lenZero, h, Bool.false_eq_true, if_false]

theorem lenZero_of_integrity_on (h : s.cfg.integrity = true) : lenZero s = (s.acceptLength 0, .lenOk) := if_pos h

/-- A store below 62 completes the frame with the last declared byte, unless a check phase follows. -/
theorem storePayload_of_lt (h : s.count.val < bufSize) (b : Byte) :
    storePayload b s =
      if s.count.val + 1 = s.declLen.toNat ∧ s.cfg.integrity = false then
        .next ((s.stored (memWrite s.count.val b s.buf)).complete, .done)
      else .next (s.stored (memWrite s.count.val b s.buf), .store) := by
  rw [storePayload, memStore_of_lt h, andThen_next]
  simp only [stored_count_val h, State.stored_declLen, State.stored_cfg]

/-! ### Where the dispatch selects no row, or another -/

theorem runRxRow_of_not_select (h : rxSelect s.ctx b ≠ some c) : runRxRow c b s = .refused .notSelected := if_neg h

/-- Every declared byte is stored and no check phase follows (notes/assumptions/13.md). -/
theorem rxSelect_eq_none {x : Ctx} (hr : x.rxState = .receiving) (hl : x.lenValid = true)
    (hfull : x.declLen.toNat ≤ x.count.val) (hno : x.count.val ≠ x.declLen.toNat ∨ x.cfg.integrity = false) (b : Byte) :
    rxSelect x b = none := by
  have hcheck : (x.cfg.integrity && x.count.val == x.declLen.toNat) = false := by
    obtain hne | hoff := hno
    · simp [hne]
    · simp [hoff]
  simp only [rxSelect, hr, hl, if_true, if_neg (Nat.not_lt.2 hfull), hcheck, Bool.false_eq_true, if_false]

theorem exec_addToBuffer_of_none (h : rxSelect s.ctx b = none) :
    exec (.addToBuffer b) s = .refused .noReceiverCase := by
  simp only [exec, execAddToBuffer, finishRx, addToBuffer, h, andThen_refused]

theorem exec_decodeStore_of_ne (h : s.rxState ≠ .completed) : exec .decodeStore s = .refused .notSelected := if_neg h

end Sys2Proof.Machine

open Sys2Proof Sys2Proof.Machine

/-- Settles O16: each clause names the case that the dispatch selects, and ADD_TO_BUFFER is that case's row. -/
theorem addToBufferDispatches : Obligations.AddToBufferDispatches := by
  intro s b
  refine ⟨fun hr => ?_, fun hr hl => ⟨fun hb => ?_, ?_, fun h0 hb => ?_⟩, fun hr hl => ⟨fun hc => ?_, fun hc hi => ?_⟩⟩
  · exact exec_addToBuffer_of_select (rxSelect_drop (x := s.ctx) hr b)
  · exact exec_addToBuffer_of_select (rxSelect_lenReject (x := s.ctx) hr hl hb)
  · rintro rfl
    exact exec_addToBuffer_of_select (rxSelect_lenZero (x := s.ctx) hr hl)
  · exact exec_addToBuffer_of_select (rxSelect_lenOk (x := s.ctx) hr hl h0 hb)
  · exact exec_addToBuffer_of_select (rxSelect_payload (x := s.ctx) hr hl hc b)
  · exact exec_addToBuffer_of_select (rxSelect_check (x := s.ctx) hr hl hc hi b)

/-- Settles O10: the dispatch selects the row, whose rule enters Error and writes nothing else. -/
theorem lengthAboveLimitIsRejected : Obligations.LengthAboveLimitIsRejected := by
  intro s b hr hl hb
  exact exec_instr_of_effect (u := s.enterError) (rxSelect_lenReject (x := s.ctx) hr hl hb) rfl

/-- Settles O11: the dispatch selects the row, whose rule accepts the length. -/
theorem lengthIsAccepted : Obligations.LengthIsAccepted := by
  intro s b hr hl hpos hb
  have h0 : b ≠ 0x00 := by rintro rfl; exact absurd hpos (by decide)
  exact exec_instr_of_effect (u := s.acceptLength b) (rxSelect_lenOk (x := s.ctx) hr hl h0 hb) rfl

/-- Settles O12, by the two settings of INTEGRITY. -/
theorem zeroLengthEndsThePayload : Obligations.ZeroLengthEndsThePayload := by
  intro s hr hl
  have hsel := rxSelect_lenZero (x := s.ctx) hr hl
  constructor
  · intro hi
    exact exec_instr_of_effect hsel (congrArg Host.Outcome.next (lenZero_of_integrity_off hi))
  · intro hi
    exact exec_instr_of_effect hsel (congrArg Host.Outcome.next (lenZero_of_integrity_on hi))

/-- Settles O13: the byte goes to `count`, which is below 62, and the two outcomes are those of the store. -/
theorem payloadByteIsStoredAtCount : Obligations.PayloadByteIsStoredAtCount := by
  intro s b hr hl hc hd
  have hsel := rxSelect_payload (x := s.ctx) hr hl hc b
  have hlt : s.count.val < bufSize := hc.trans_le hd
  have heff := storePayload_of_lt hlt b
  have hcount := stored_count_val hlt (memWrite s.count.val b s.buf)
  have hsame := memRead_memWrite_same s.count.val b s.buf
  have hother (j : Nat) (hj : j ≠ s.count.val) := memRead_memWrite_other hj b s.buf
  by_cases hlast : s.count.val + 1 = s.declLen.toNat ∧ s.cfg.integrity = false
  · rw [if_pos hlast] at heff
    exact ⟨_, exec_instr_of_effect hsel heff, hcount, hsame, hother, fun _ => rfl, fun hmore => absurd hlast hmore⟩
  · rw [if_neg hlast] at heff
    exact ⟨_, exec_instr_of_effect hsel heff, hcount, hsame, hother, fun h => absurd h hlast, fun _ => rfl⟩

/-- Settles O14: outside Receiving the dispatch selects the row, whose rule writes nothing. -/
theorem byteOutsideAFrameIsDropped : Obligations.ByteOutsideAFrameIsDropped := by
  intro s b hout
  have hr : s.rxState ≠ .receiving := by obtain h | h | h := hout <;> simp [h]
  exact exec_instr_of_effect (u := s) (rxSelect_drop (x := s.ctx) hr b) rfl

/-- Settles O17: each clause denies what the dispatch would need to select the row. -/
theorem internalRowsNeedTheirPosition : Obligations.InternalRowsNeedTheirPosition := by
  intro s b
  refine ⟨fun hr => ?_, fun hoff => ?_, fun hb => ?_, fun hb => ?_, fun hoff => ?_, fun hoff => ?_,
    fun hr hl hfull hno => ?_, exec_decodeStore_of_ne⟩
  · exact runRxRow_of_not_select fun hsel => rxSelect_eq_some hsel hr
  · have hphase (hr : s.rxState = .receiving) (hl : s.lenValid = false) : False := by simp [hr, hl] at hoff
    refine ⟨runRxRow_of_not_select fun hsel => ?_, runRxRow_of_not_select fun hsel => ?_,
      runRxRow_of_not_select fun hsel => ?_⟩ <;>
      obtain ⟨hr, hl, -⟩ := rxSelect_eq_some hsel <;>
      exact hphase hr hl
  · refine runRxRow_of_not_select fun hsel => ?_
    obtain ⟨-, -, habove⟩ := rxSelect_eq_some hsel
    exact absurd habove (Nat.not_lt.2 hb)
  · refine runRxRow_of_not_select fun hsel => ?_
    obtain ⟨-, -, h0, hle⟩ := rxSelect_eq_some hsel
    exact hb.elim h0 (Nat.not_lt.2 hle)
  · refine runRxRow_of_not_select fun hsel => ?_
    obtain ⟨hr, hl, hlt⟩ := rxSelect_eq_some hsel
    obtain h | h | h := hoff
    · exact h hr
    · exact absurd (h.symm.trans hl) Bool.noConfusion
    · exact absurd hlt (Nat.not_lt.2 h)
  · refine runRxRow_of_not_select fun hsel => ?_
    obtain ⟨hr, hl, hc, hi⟩ := rxSelect_eq_some hsel
    obtain h | h | h | h := hoff
    · exact h hr
    · exact absurd (h.symm.trans hl) Bool.noConfusion
    · exact h hc
    · exact absurd (h.symm.trans hi) Bool.noConfusion
  · exact exec_addToBuffer_of_none (rxSelect_eq_none (x := s.ctx) hr hl hfull hno b)

end

section
/-! START (spec/41_receiver.md R120) and `data()` (R127). -/

namespace Sys2Proof.Machine

theorem exec_start_localAddr (s : State) :
    exec (.start s.cfg.localAddr) s = .next (s.beginFrame.finish .nothing (.ingest .start .none)) :=
  (if_pos rfl).trans (matchWord_eq s)

theorem exec_dataRead_of_le {s : State} (h : s.declLen.toNat ≤ bufSize) :
    exec .dataRead s = .next (s.finish (.bytes s.assembled) .none) := by
  rw [exec, execDataRead, payload_of_le h, andThen_next, State.assembled]

theorem assembled_length (s : State) : s.assembled.length = s.declLen.toNat := by
  rw [State.assembled, List.length_map, List.length_range]

theorem assembled_getElem? {s : State} {j : Nat} (hj : j < s.declLen.toNat) :
    s.assembled[j]? = some (memRead j s.buf) := by
  rw [State.assembled, List.getElem?_map, List.getElem?_range hj, Option.map_some]

end Sys2Proof.Machine

open Sys2Proof.Machine

/-- Settles O4: the word begins a frame and the trigger, in Receiving, does not fire. -/
theorem startBeginsAFrame : Obligations.StartBeginsAFrame := exec_start_localAddr

/-- Settles O18: the value is the list `State.assembled`. -/
theorem dataReadReturnsThePayload : Obligations.DataReadReturnsThePayload := fun s hd =>
  ⟨s.assembled, exec_dataRead_of_le hd, assembled_length s, fun _ => assembled_getElem?⟩

end

section
/-! Words after a rejected length (spec/41_receiver.md R128): in Error every word but START is dropped. -/

namespace Sys2Proof.Machine

variable {s u : State} {b : Byte} {w : Symbol}

/-- A word whose byte does not complete the frame ends with the Receiver's case: the trigger does not fire. -/
theorem feedByte_of_effect {c : RxCase} {l : RxLabel} (hsel : rxSelect s.ctx b = some c)
    (heff : rxEffect c b s = .next (u, l)) (hu : u.rxState ≠ .completed) :
    feedByte b s = .next (u.finish .nothing (.ingest l .none)) := by
  rw [feedByte, addToBuffer_of_select hsel, heff, andThen_next, finishIngest_of_ne hu]

/-- A word that is no START feeds a byte, whatever its marker bit (42_parser R140). -/
theorem exec_ingest_of_notMatching (hw : notMatching s.cfg.localAddr w) :
    ∃ b, exec (.ingest w) s = feedByte b s := by
  obtain ⟨a, hdec, rfl⟩ | ⟨b, -, rfl⟩ := wordDecode_cases w
  · have ha : a ≠ s.cfg.localAddr := fun h => hw (congrArg wordEncodeAddr h)
    exact ⟨a, by simp only [exec, execIngest, ingest, hdec, if_neg ha]⟩
  · exact ⟨b, ingest_data b s⟩

theorem exec_ingest_of_error (hr : s.rxState = .error) (hw : notMatching s.cfg.localAddr w) :
    exec (.ingest w) s = .next (s.finish .nothing (.ingest .drop .none)) := by
  obtain ⟨b, hb⟩ := exec_ingest_of_notMatching hw
  rw [hb]
  exact feedByte_of_effect (rxSelect_drop (x := s.ctx) (by simp [hr]) b) rfl (by simp [hr])

theorem ingestAll_of_error (hr : s.rxState = .error) {ws : List Symbol}
    (hws : ∀ w ∈ ws, notMatching s.cfg.localAddr w) (l : Label) :
    ∃ l', ingestAll ws (s.finish .nothing l) = .next (s.finish .nothing l') := by
  induction ws generalizing l with
  | nil => exact ⟨l, rfl⟩
  | cons w ws ih =>
    obtain ⟨hw, hws⟩ := List.forall_mem_cons.1 hws
    have hdrop := exec_ingest_of_error (s := s.finish .nothing l) hr hw
    rw [ingestAll, hdrop]
    exact ih hws _

theorem exec_ingest_lenReject (hr : s.rxState = .receiving) (hl : s.lenValid = false)
    (hb : s.cfg.lenLimit.toNat < b.toNat) :
    exec (.ingest (wordEncodeData b)) s = .next (s.enterError.finish .nothing (.ingest .lenReject .none)) := by
  rw [ingest_data]
  exact feedByte_of_effect (rxSelect_lenReject (x := s.ctx) hr hl hb) rfl (by simp)

end Sys2Proof.Machine

open Sys2Proof Sys2Proof.Machine

/-- Settles O20: the length byte leads to Error, and by induction on the words none of them leaves it. -/
theorem rejectedLengthNeverCompletes : Obligations.RejectedLengthNeverCompletes := by
  intro s b ws hr hl hb hws
  obtain ⟨l, hrest⟩ := ingestAll_of_error (s := s.enterError) rfl hws (.ingest .lenReject .none)
  refine ⟨s.enterError.finish .nothing l, ?_, rfl⟩
  rw [ingestAll, exec_ingest_lenReject hr hl hb, andThen_next, hrest]

end

section
/-! The Parser's functions run by themselves (spec/42_parser.md R142 to R144). -/

namespace Sys2Proof.Machine

variable {s : State} {before : RxState}

/-! ### COMPLETION_TRIGGER and DECODE_STORE -/

theorem triggerFires_of_edge (h : s.cfg.decodeTrigger = .edge) :
    triggerFires before s = true ↔ s.rxState = .completed ∧ before ≠ .completed := by
  simp [triggerFires, h]

theorem triggerFires_of_level (h : s.cfg.decodeTrigger = .level) :
    triggerFires before s = true ↔ s.rxState = .completed := by
  simp [triggerFires, h]

theorem exec_decodeStore_of_completed (h : s.rxState = .completed) :
    exec .decodeStore s = andThen (decodeStore s) fun p => .next (p.1.finish .nothing (.dec p.2)) := if_pos h

theorem exec_completionTrigger_of_fires (h : triggerFires before s = true) :
    exec (.completionTrigger before) s = exec .decodeStore s := by
  have hc := triggerFires_completed h
  rw [exec_decodeStore_of_completed hc, exec, execCompletionTrigger, completionTrigger, if_pos h]

theorem exec_completionTrigger_of_not_fires (h : ¬ triggerFires before s = true) :
    exec (.completionTrigger before) s = .next (s.finish .nothing (.dec .none)) := by
  rw [exec, execCompletionTrigger, completionTrigger, if_neg h, andThen_next]

/-! ### POLL -/

theorem exec_poll (s : State) :
    exec .poll s = .next ((s.setMailbox none).finish (.taken s.mailbox) (.take s.mailbox)) := rfl

end Sys2Proof.Machine

open Sys2Proof.Machine

/-- Settles O22: each clause decides `triggerFires` under the setting it names. -/
theorem triggerFiresByItsSetting : Obligations.TriggerFiresByItsSetting := by
  intro s before
  refine ⟨fun hedge hc hb => ?_, fun hedge hno => ?_, fun hlevel hc => ?_, fun hlevel hno => ?_⟩
  · exact exec_completionTrigger_of_fires ((triggerFires_of_edge hedge).2 ⟨hc, hb⟩)
  · refine exec_completionTrigger_of_not_fires fun hfires => ?_
    obtain ⟨hc, hb⟩ := (triggerFires_of_edge hedge).1 hfires
    exact hno.elim (absurd hc) hb
  · exact exec_completionTrigger_of_fires ((triggerFires_of_level hlevel).2 hc)
  · exact exec_completionTrigger_of_not_fires fun hfires => hno ((triggerFires_of_level hlevel).1 hfires)

/-- Settles O23, by what the assembled payload decodes to. -/
theorem decodeStoreFillsTheMailbox : Obligations.DecodeStoreFillsTheMailbox := by
  intro s hc hd
  have hexec := exec_decodeStore_of_completed hc
  rw [decodeStore_of_le hd] at hexec
  constructor
  · intro m hm
    rw [hexec, hm]
    rfl
  · intro e he
    rw [hexec, he]
    rfl

/-- Settles O24: POLL empties the mailbox, so the next POLL takes none. -/
theorem pollTakesTheMailbox : Obligations.PollTakesTheMailbox := fun s =>
  ⟨_, exec_poll s, rfl, exec_poll _⟩

end

section
/-! A word is the Receiver's part, then the completion trigger (spec/42_parser.md R140, R141). -/

namespace Sys2Proof.Machine

variable {s u v : State} {a b : Byte}

/-! ### The rows of a word -/

/-- The address filter: equality with `LOCAL_ADDR` alone decides (the spec's decision D27). -/
theorem exec_ingest_addr (a : Byte) (s : State) :
    exec (.ingest (wordEncodeAddr a)) s = if a = s.cfg.localAddr then matchWord s else feedByte a s := by
  simp only [exec, execIngest, ingest, wordDecode_wordEncodeAddr]

theorem exec_start_of_eq (h : a = s.cfg.localAddr) : exec (.start a) s = matchWord s := if_pos h

theorem exec_foreignAddr_of_ne (h : a ≠ s.cfg.localAddr) : exec (.foreignAddr a) s = feedByte a s := if_neg h

theorem exec_data (b : Byte) (s : State) : exec (.data b) s = feedByte b s := rfl

/-! ### Neither part reads what the last step returned, or its label -/

theorem decodeStore_finish (s : State) (o : Output) (l : Label) :
    decodeStore (s.finish o l) = andThen (decodeStore s) fun p => .next (p.1.finish o l, p.2) := by
  have hpayload : (s.finish o l).payload = s.payload := rfl
  rw [decodeStore, decodeStore, hpayload, State.finish_cfg]
  cases s.payload with
  | next p =>
    simp only [andThen_next]
    cases msgDecode s.cfg.excessPolicy p <;> rfl
  | fault e => rfl
  | refused e => rfl

theorem completionTrigger_finish (before : RxState) (s : State) (o : Output) (l : Label) :
    completionTrigger before (s.finish o l) =
      andThen (completionTrigger before s) fun p => .next (p.1.finish o l, p.2) := by
  have hfires : triggerFires before (s.finish o l) = triggerFires before s := rfl
  rw [completionTrigger, completionTrigger, hfires, decodeStore_finish]
  split <;> rfl

theorem exec_addToBuffer_next (h : exec (.addToBuffer b) s = .next u) :
    ∃ t l, addToBuffer b s = .next (t, l) ∧ u = t.finish .nothing (.rx l) := by
  obtain ⟨⟨t, l⟩, hadd, hu⟩ := andThen_eq_next h
  exact ⟨t, l, hadd, (next_inj hu).symm⟩

theorem exec_completionTrigger_next {before : RxState} (h : exec (.completionTrigger before) s = .next v) :
    ∃ t d, completionTrigger before s = .next (t, d) ∧ v = t.finish .nothing (.dec d) := by
  obtain ⟨⟨t, d⟩, htrig, hv⟩ := andThen_eq_next h
  exact ⟨t, d, htrig, (next_inj hv).symm⟩

end Sys2Proof.Machine

open Sys2Proof Sys2Proof.Machine

/-- Settles O5, clause by clause: INGEST of a word and the row of that word are one operation. -/
theorem ingestActsOnTheWord : Obligations.IngestActsOnTheWord := by
  intro s a b
  refine ⟨fun ha => ?_, fun ha => ?_, ?_⟩
  · rw [exec_ingest_addr, if_pos ha, exec_start_of_eq ha]
  · rw [exec_ingest_addr, if_neg ha, exec_foreignAddr_of_ne ha]
  · rw [ingest_data, exec_data]

/-- Settles O7: run by themselves the two parts go through the states they go through inside the word, but for
what the first returned and its label, which the second does not read. -/
theorem ingestIsReceiverThenTrigger : Obligations.IngestIsReceiverThenTrigger := by
  intro s u v b l d hu hl hv hd
  obtain ⟨t, l', hadd, rfl⟩ := exec_addToBuffer_next hu
  obtain ⟨w, d', hw, rfl⟩ := exec_completionTrigger_next hv
  rw [completionTrigger_finish] at hw
  obtain ⟨⟨x, d''⟩, htrig, hx⟩ := andThen_eq_next hw
  cases next_inj hx
  cases hl
  cases hd
  rw [exec_data, feedByte, hadd, andThen_next, finishIngest, htrig, andThen_next]
  rfl

end

section
/-! The message decoder on an encoded message (spec/43_message_codec.md R177). -/

namespace Sys2Proof.Machine

/-- Every encoded message fits a frame (44_transport R195). -/
theorem msgEncode_length_le (m : Message) : (msgEncode m).length ≤ maxDataLen := by
  rw [msgEncode_length]
  exact (kindLength_le _).trans (by decide)

/-- An encoding has its kind's length, so CHECK_LEN passes under both policies (43_message_codec R166). -/
theorem decodeKind_msgEncode (pol : ExcessPolicy) (m r : Message) :
    decodeKind pol (kindLength (kindOf m)) (msgEncode m) r = .ok r := by
  have hlen : checkLen pol (msgEncode m) (kindLength (kindOf m)) = .ok := by simp [checkLen, msgEncode_length]
  rw [decodeKind_of_le (msgEncode_length_le m), hlen]

theorem broadcastField_encBroadcast (b : Vector Byte 10) : broadcastField (encBroadcast b) = b := by
  have hbyte (k : Nat) (hk : k < 10) : byteAt (encBroadcast b) (k + 1) = b[k] := by
    simp [byteAt, encBroadcast, hk]
  refine Vector.ext fun k hk => ?_
  interval_cases k <;> exact hbyte _ _

/-- The field behind any discriminant byte (30_encoding R87, R88). -/
theorem valueField_cons_bytesLe32 (d : Byte) (v : Value) : valueField (d :: bytesLe32 v) = v := le32_bytes v

theorem msgDecode_msgEncode (pol : ExcessPolicy) : ∀ m : Message, msgDecode pol (msgEncode m) = .ok m
  | .broadcast b =>
    calc msgDecode pol (msgEncode (.broadcast b))
      _ = .ok (.broadcast (broadcastField (encBroadcast b))) := decodeKind_msgEncode pol (.broadcast b) _
      _ = .ok (.broadcast b) := by rw [broadcastField_encBroadcast]
  | .discoveryRequest => decodeKind_msgEncode pol .discoveryRequest _
  | .discoveryAck => decodeKind_msgEncode pol .discoveryAck _
  | .updateRequest v =>
    calc msgDecode pol (msgEncode (.updateRequest v))
      _ = .ok (.updateRequest (valueField (encUpdateRequest v))) := decodeKind_msgEncode pol (.updateRequest v) _
      _ = .ok (.updateRequest v) := by rw [encUpdateRequest, valueField_cons_bytesLe32]
  | .solenoidUpdate v =>
    calc msgDecode pol (msgEncode (.solenoidUpdate v))
      _ = .ok (.solenoidUpdate (valueField (encSolenoidUpdate v))) := decodeKind_msgEncode pol (.solenoidUpdate v) _
      _ = .ok (.solenoidUpdate v) := by rw [encSolenoidUpdate, valueField_cons_bytesLe32]

end Sys2Proof.Machine

end

section
/-! A frame received word by word (spec/44_transport.md R196, R198): `InFrame` holds between its length word and its
end, `FrameDone` at its end, and each word leads from one position to the next. -/

namespace Sys2Proof.Machine

variable {s : State} {c : Cfg} {n : Nat} {p q : List Byte} {b : Byte}

/-- The Receiver has accepted the length `n` and stored the bytes `q`, and no check byte has come. -/
structure InFrame (c : Cfg) (n : Nat) (q : List Byte) (s : State) : Prop where
  cfg      : s.cfg = c
  rxState  : s.rxState = .receiving
  lenValid : s.lenValid = true
  declLen  : s.declLen = BitVec.ofNat 8 n
  count    : s.count.val = q.length
  ckCount  : s.ckCount = 0
  bytes    : ∀ j (hj : j < q.length), memRead j s.buf = q[j]

/-- The Receiver has completed a frame with the payload `p`. -/
structure FrameDone (c : Cfg) (p : List Byte) (s : State) : Prop where
  cfg       : s.cfg = c
  rxState   : s.rxState = .completed
  declLen   : s.declLen.toNat = p.length
  assembled : s.assembled = p

/-- A payload's length fits its byte (44_transport R193). -/
theorem toNat_ofNat_of_le (h : n ≤ maxDataLen) : (BitVec.ofNat 8 n).toNat = n := by
  simp only [maxDataLen] at h
  rw [BitVec.toNat_ofNat, Nat.mod_eq_of_lt (by omega)]

/-! ### The last word -/

/-- DECODE_STORE on the completed frame, as the end of the INGEST that completed it. -/
def storeDone (u : State) : Res State :=
  andThen (decodeStore u) fun r => .next (r.1.finish .nothing (.ingest .done r.2))

/-- A word whose byte completes the frame fires the trigger, under both settings (42_parser R142). -/
theorem feedByte_of_done {k : RxCase} {u : State} (hsel : rxSelect s.ctx b = some k)
    (heff : rxEffect k b s = .next (u, .done)) (hr : s.rxState = .receiving) (hu : u.rxState = .completed) :
    feedByte b s = storeDone u := by
  rw [feedByte, addToBuffer_of_select hsel, heff, andThen_next, finishIngest_of_done (by simp [hr]) hu, storeDone]

/-! ### A frame in progress -/

theorem InFrame.declLen_toNat (h : InFrame c n q s) (hn : n ≤ maxDataLen) : s.declLen.toNat = n := by
  rw [h.declLen, toNat_ofNat_of_le hn]

theorem InFrame.finish (h : InFrame c n q s) (o : Output) (l : Label) : InFrame c n q (s.finish o l) :=
  { h with }

theorem InFrame.assembled_eq (h : InFrame c p.length p s) (hp : p.length ≤ maxDataLen) : s.assembled = p :=
  Machine.assembled_eq (h.declLen_toNat hp) h.bytes

theorem InFrame.complete (h : InFrame c p.length p s) (hp : p.length ≤ maxDataLen) : FrameDone c p s.complete where
  cfg := h.cfg
  rxState := rfl
  declLen := h.declLen_toNat hp
  assembled := h.assembled_eq hp

/-! ### The address word and the length word -/

theorem andThen_ingestAll_nil (r : Res State) : andThen r (ingestAll []) = r := by cases r <;> rfl

theorem ingestAll_singleton (w : Symbol) (s : State) : ingestAll [w] s = exec (.ingest w) s := by
  rw [ingestAll, andThen_ingestAll_nil]

/-- The state after the address word. -/
def State.started (s : State) : State := s.beginFrame.finish .nothing (.ingest .start .none)

theorem ingestAll_head (b : Byte) (s : State) :
    ingestAll [wordEncodeAddr s.cfg.localAddr, wordEncodeData b] s = feedByte b s.started := by
  rw [ingestAll, ingest_start, andThen_next, ingestAll_singleton, ingest_data, State.started]

theorem InFrame.started_acceptLength (s : State) (n : Nat) :
    InFrame s.cfg n [] (s.started.acceptLength (BitVec.ofNat 8 n)) where
  cfg := rfl
  rxState := rfl
  lenValid := rfl
  declLen := rfl
  count := rfl
  ckCount := rfl
  bytes := nofun

/-- The length word of a frame that has more to come. -/
theorem feedByte_length (hn : n ≤ maxDataLen) (hlim : n ≤ s.cfg.lenLimit.toNat)
    (hmore : n ≠ 0 ∨ s.cfg.integrity = true) :
    ∃ t, feedByte (BitVec.ofNat 8 n) s.started = .next t ∧ InFrame s.cfg n [] t := by
  have hframe := InFrame.started_acceptLength s n
  have hopen : (s.started.acceptLength (BitVec.ofNat 8 n)).rxState ≠ .completed := by
    rw [hframe.rxState]
    decide
  refine ⟨_, ?_, hframe.finish .nothing (.ingest .lenOk .none)⟩
  by_cases h0 : n = 0
  · subst h0
    have hi : s.started.cfg.integrity = true := hmore.resolve_left (by simp)
    exact feedByte_of_effect (rxSelect_lenZero (x := s.started.ctx) rfl rfl)
      (congrArg Host.Outcome.next (lenZero_of_integrity_on hi)) hopen
  · have hb : (BitVec.ofNat 8 n : Byte) ≠ 0 := fun h => h0 (by rw [← toNat_ofNat_of_le hn, h]; rfl)
    have hle : (BitVec.ofNat 8 n).toNat ≤ s.started.cfg.lenLimit.toNat := (toNat_ofNat_of_le hn).trans_le hlim
    exact feedByte_of_effect (rxSelect_lenOk (x := s.started.ctx) rfl rfl hb hle) rfl hopen

/-- The length word is the last of an empty frame without a check phase (41_receiver R124). -/
theorem feedByte_length_zero (hoff : s.cfg.integrity = false) :
    ∃ u, FrameDone s.cfg [] u ∧ feedByte (BitVec.ofNat 8 0) s.started = storeDone u :=
  ⟨_, (InFrame.started_acceptLength s 0).complete (Nat.zero_le _),
    feedByte_of_done (rxSelect_lenZero (x := s.started.ctx) rfl rfl)
      (congrArg Host.Outcome.next (lenZero_of_integrity_off hoff)) rfl rfl⟩

/-! ### The payload -/

theorem InFrame.stored (h : InFrame c n q s) (hq : q.length < bufSize) (b : Byte) :
    InFrame c n (q ++ [b]) (s.stored (memWrite s.count.val b s.buf)) where
  cfg := h.cfg
  rxState := h.rxState
  lenValid := h.lenValid
  declLen := h.declLen
  count := by rw [stored_count_val (h.count.trans_lt hq), h.count, List.length_append, List.length_singleton]
  ckCount := h.ckCount
  bytes j hj := by
    rw [State.stored_buf, memRead_memWrite, h.count]
    by_cases hlast : j = q.length
    · subst hlast; simp
    · have hlt : j < q.length := by simp at hj; omega
      rw [if_neg hlast, h.bytes j hlt, List.getElem_append_left hlt]

theorem InFrame.select_payload (h : InFrame c n q s) (hn : n ≤ maxDataLen) (hq : q.length < n) (b : Byte) :
    rxSelect s.ctx b = some .payload :=
  rxSelect_payload (x := s.ctx) h.rxState h.lenValid
    (by simp only [State.ctx_count, State.ctx_declLen, h.count, h.declLen_toNat hn, hq]) b

/-- The condition under which a stored byte is the frame's last (41_receiver R125). -/
theorem InFrame.last_iff (h : InFrame c n q s) (hn : n ≤ maxDataLen) :
    (s.count.val + 1 = s.declLen.toNat ∧ s.cfg.integrity = false) ↔ (q.length + 1 = n ∧ c.integrity = false) := by
  rw [h.count, h.declLen_toNat hn, h.cfg]

/-- A payload byte that leaves the frame incomplete. -/
theorem exec_ingest_payload (h : InFrame c n q s) (hn : n ≤ maxDataLen) (hq : q.length < n)
    (hmore : q.length + 1 < n ∨ c.integrity = true) (b : Byte) :
    ∃ t, exec (.ingest (wordEncodeData b)) s = .next t ∧ InFrame c n (q ++ [b]) t := by
  have hlt : s.count.val < bufSize := h.count.trans_lt (hq.trans_le hn)
  have hnext := h.stored (hq.trans_le hn) b
  have hnot : ¬(q.length + 1 = n ∧ c.integrity = false) := by
    rintro ⟨hlast, hoff⟩
    obtain hmore | hon := hmore
    · exact hmore.ne hlast
    · simp [hon] at hoff
  have heff := storePayload_of_lt hlt b
  rw [if_neg (mt (h.last_iff hn).1 hnot)] at heff
  refine ⟨_, ?_, hnext.finish .nothing (.ingest .store .none)⟩
  rw [ingest_data]
  exact feedByte_of_effect (h.select_payload hn hq b) heff (by simp [h.rxState])

/-- Payload bytes that leave the frame incomplete. -/
theorem ingestAll_payload (h : InFrame c n q s) (hn : n ≤ maxDataLen) (hp : q.length + p.length ≤ n)
    (hmore : q.length + p.length < n ∨ c.integrity = true) :
    ∃ t, ingestAll (p.map wordEncodeData) s = .next t ∧ InFrame c n (q ++ p) t := by
  induction p generalizing q s with
  | nil => exact ⟨s, rfl, by rwa [List.append_nil]⟩
  | cons b p ih =>
    rw [List.length_cons] at hp hmore
    obtain ⟨t, hb, ht⟩ := exec_ingest_payload h hn (by omega) (hmore.imp_left (by omega)) b
    obtain ⟨u, hrest, hu⟩ := ih ht
      (by rw [List.length_append, List.length_singleton]; omega)
      (hmore.imp_left (by rw [List.length_append, List.length_singleton]; omega))
    refine ⟨u, ?_, by rwa [List.append_assoc] at hu⟩
    rw [List.map_cons, ingestAll, hb, andThen_next, hrest]

/-- The last payload byte of a frame without a check phase. -/
theorem feedByte_last (h : InFrame c (q ++ [b]).length q s) (hn : (q ++ [b]).length ≤ maxDataLen)
    (hoff : c.integrity = false) : ∃ u, FrameDone c (q ++ [b]) u ∧ feedByte b s = storeDone u := by
  have hq : q.length < (q ++ [b]).length := by simp
  have hlt : s.count.val < bufSize := h.count.trans_lt (hq.trans_le hn)
  have heff := storePayload_of_lt hlt b
  rw [if_pos ((h.last_iff hn).2 ⟨by simp, hoff⟩)] at heff
  exact ⟨_, (h.stored (hq.trans_le hn) b).complete hn,
    feedByte_of_done (h.select_payload hn hq b) heff h.rxState rfl⟩

/-! ### The check words -/

theorem InFrame.count_eq_declLen (h : InFrame c p.length p s) (hp : p.length ≤ maxDataLen) :
    s.count.val = s.declLen.toNat := by
  rw [h.count, h.declLen_toNat hp]

theorem InFrame.select_check (h : InFrame c p.length p s) (hp : p.length ≤ maxDataLen) (hon : c.integrity = true)
    (b : Byte) : rxSelect s.ctx b = some .check :=
  rxSelect_check (x := s.ctx) h.rxState h.lenValid (h.count_eq_declLen hp)
    ((congrArg Cfg.integrity h.cfg).trans hon) b

/-- The state after the first check word. -/
def State.lowTaken (s : State) (lo : Byte) : State := (s.checkLow lo).finish .nothing (.ingest .ckLo .none)

theorem feedByte_check_low (h : InFrame c p.length p s) (hp : p.length ≤ maxDataLen) (hon : c.integrity = true)
    (lo : Byte) : feedByte lo s = .next (s.lowTaken lo) :=
  feedByte_of_effect (h.select_check hp hon lo) (if_pos h.ckCount) (by simp [h.rxState])

theorem InFrame.payload_lowTaken (h : InFrame c p.length p s) (hp : p.length ≤ maxDataLen) (lo : Byte) :
    (s.lowTaken lo).payload = .next p := by
  have hbound : s.declLen.toNat ≤ bufSize := (h.declLen_toNat hp).trans_le hp
  have hpayload : s.payload = .next s.assembled := payload_of_le hbound
  rwa [h.assembled_eq hp] at hpayload

/-- The second check byte completes the frame where the two make up CHECK_FN's value (44_transport R196). -/
theorem feedByte_check_high (h : InFrame c p.length p s) (hp : p.length ≤ maxDataLen) (hon : c.integrity = true)
    {lo hi : Byte} (hcode : le16 lo hi = Config.checkFn c.checkSel c.localAddr (BitVec.ofNat 8 p.length) p) :
    ∃ u, FrameDone c p u ∧ feedByte hi (s.lowTaken lo) = storeDone u := by
  have hmatch : le16 (s.lowTaken lo).ckLo hi =
      Config.checkFn (s.lowTaken lo).cfg.checkSel (s.lowTaken lo).cfg.localAddr (s.lowTaken lo).declLen p := by
    simpa only [State.lowTaken, State.finish_ckLo, State.checkLow_ckLo, State.finish_cfg, State.checkLow_cfg,
      State.finish_declLen, State.checkLow_declLen, h.cfg, h.declLen] using hcode
  have heff : rxEffect .check hi (s.lowTaken lo) = .next ((s.lowTaken lo).checkTaken.complete, .done) := by
    rw [rxEffect, checkByte, if_neg (by simp [State.lowTaken]), h.payload_lowTaken hp, andThen_next, if_pos hmatch]
  exact ⟨(s.lowTaken lo).checkTaken.complete, ⟨h.cfg, rfl, h.declLen_toNat hp, h.assembled_eq hp⟩,
    feedByte_of_done (h.select_check hp hon hi) heff h.rxState rfl⟩

/-- The check words of the payload itself. -/
theorem ingestAll_checkWords (h : InFrame c p.length p s) (hp : p.length ≤ maxDataLen) (hon : c.integrity = true) :
    ∃ u, FrameDone c p u ∧ ingestAll (checkWords c c.localAddr p) s = storeDone u := by
  obtain ⟨u, hu, hhigh⟩ := feedByte_check_high h hp hon (le16_bytes _)
  refine ⟨u, hu, ?_⟩
  rw [checkWords, if_pos hon, bytesLe16, List.map_cons, List.map_singleton, ingestAll, ingest_data,
    feedByte_check_low h hp hon, andThen_next, ingestAll_singleton, ingest_data, hhigh]

/-! ### The whole frame -/

theorem frameWords_eq_append (c : Cfg) (a : Byte) (p : List Byte) :
    frameWords c a p =
      [wordEncodeAddr a, wordEncodeData (BitVec.ofNat 8 p.length)] ++ (p.map wordEncodeData ++ checkWords c a p) := by
  simp [frameWords]

/-- The words of a frame of the receiver's own configuration complete it, and the last one fires the trigger. -/
theorem ingestAll_frameWords (hp : p.length ≤ maxDataLen) (hlim : p.length ≤ s.cfg.lenLimit.toNat) :
    ∃ u, FrameDone s.cfg p u ∧ ingestAll (frameWords s.cfg s.cfg.localAddr p) s = storeDone u := by
  rw [frameWords_eq_append, ingestAll_append, ingestAll_head]
  by_cases hi : s.cfg.integrity = true
  · obtain ⟨t, hlen, ht⟩ := feedByte_length hp hlim (.inr hi)
    obtain ⟨v, hbytes, hv⟩ := ingestAll_payload (p := p) ht hp (by simp) (.inr hi)
    obtain ⟨u, hu, hcheck⟩ := ingestAll_checkWords hv hp hi
    exact ⟨u, hu, by rw [hlen, andThen_next, ingestAll_append, hbytes, andThen_next, hcheck]⟩
  · have hnone : checkWords s.cfg s.cfg.localAddr p = [] := if_neg hi
    rw [Bool.not_eq_true] at hi
    rw [hnone, List.append_nil]
    obtain rfl | ⟨q, b, rfl⟩ := List.eq_nil_or_concat' p
    · obtain ⟨u, hu, hlen⟩ := feedByte_length_zero hi
      refine ⟨u, hu, ?_⟩
      rw [List.map_nil, List.length_nil, hlen, andThen_ingestAll_nil]
    · obtain ⟨t, hlen, ht⟩ := feedByte_length hp hlim (.inl (by simp))
      obtain ⟨v, hbytes, hv⟩ := ingestAll_payload (p := q) ht hp (by simp) (.inl (by simp))
      obtain ⟨u, hu, hlast⟩ := feedByte_last hv hp hi
      refine ⟨u, hu, ?_⟩
      rw [hlen, andThen_next, List.map_append, ingestAll_append, hbytes, andThen_next, List.map_singleton,
        ingestAll_singleton, ingest_data, hlast]

end Sys2Proof.Machine
end

section
/-! A message sent over a frame arrives in the mailbox (spec/44_transport.md R200), and a later one overwrites it
(spec/42_parser.md R145). -/

namespace Sys2Proof.Machine

variable {r s u : State} {c : Cfg} {a : Byte} {p : List Byte} {m : Message} {ws : List Symbol}

/-! ### The words that are sent -/

theorem txFrame_eq_words (h : txFrame c a p = .words ws) : p.length ≤ maxDataLen ∧ ws = frameWords c a p := by
  unfold txFrame at h
  split_ifs at h with hlong hself
  cases h
  exact ⟨Nat.not_lt.1 hlong, rfl⟩

theorem exec_txMessage (a : Byte) (m : Message) (s : State) :
    exec (.txMessage a m) s = .next (s.finish (.frame (txFrame s.cfg a (msgEncode m))) .none) := rfl

theorem exec_txMessage_words
    (h : exec (.txMessage a m) r = .next { r with out := .frame (.words ws), label := .none }) :
    ws = frameWords r.cfg a (msgEncode m) := by
  rw [exec_txMessage] at h
  injection congrArg State.out (next_inj h) with hframe
  obtain ⟨-, hws⟩ := txFrame_eq_words hframe
  exact hws

/-- Of the sender's configuration only INTEGRITY and CHECK_FN reach the words (44_transport R194). -/
theorem frameWords_congr {c' : Cfg} (hi : c.integrity = c'.integrity) (hf : c.checkSel = c'.checkSel) :
    frameWords c a p = frameWords c' a p := by
  simp only [frameWords, checkWords, hi, hf]

/-! ### What the receiver does with them -/

theorem storeDone_of_message (h : FrameDone c (msgEncode m) u) :
    storeDone u = .next ((u.setMailbox (some m)).finish .nothing (.ingest .done (.stored (kindOf m)))) := by
  have hlen : u.declLen.toNat ≤ bufSize := h.declLen.trans_le (msgEncode_length_le m)
  rw [storeDone, decodeStore_of_le hlen, h.assembled, msgDecode_msgEncode]
  rfl

theorem ingestAll_message (hlim : kindLength (kindOf m) ≤ s.cfg.lenLimit.toNat) :
    ∃ t, ingestAll (frameWords s.cfg s.cfg.localAddr (msgEncode m)) s = .next t ∧
      t.cfg = s.cfg ∧ t.mailbox = some m ∧ t.label = .ingest .done (.stored (kindOf m)) := by
  rw [← msgEncode_length] at hlim
  obtain ⟨u, hu, hwords⟩ := ingestAll_frameWords (msgEncode_length_le m) hlim
  exact ⟨_, hwords.trans (storeDone_of_message hu), hu.cfg, rfl, rfl⟩

end Sys2Proof.Machine

open Sys2Proof Sys2Proof.Machine

/-- Settles O44: each frame ends with its own message in the mailbox, whatever was there before. -/
theorem laterMessageOverwrites : Obligations.LaterMessageOverwrites := by
  intro r s m₁ m₂ ws₁ ws₂ hsent₁ hsent₂ hi hf hlim₁ hlim₂
  obtain ⟨t₁, hwords₁, hcfg, -, -⟩ := ingestAll_message hlim₁
  obtain ⟨t₂, hwords₂, -, hbox, -⟩ := ingestAll_message (s := t₁) (m := m₂) (hcfg ▸ hlim₂)
  rw [exec_txMessage_words hsent₁, exec_txMessage_words hsent₂, frameWords_congr hi hf, frameWords_congr hi hf]
  rw [hcfg] at hwords₂
  refine ⟨t₂, _, ?_, exec_poll t₂, ?_, rfl⟩
  · rw [ingestAll_append, hwords₁, andThen_next, hwords₂]
  · rw [State.finish_out, hbox]

end

section
/-! The message decoder run by itself (spec/43_message_codec.md R160 to R168): CHECK_LEN, the kind rules and the dispatch
on the discriminant. -/

namespace Sys2Proof.Machine

variable {s : State} {pol : ExcessPolicy} {p rest extra : List Byte} {n : Nat} {d b0 b1 b2 b3 b4 b5 b6 b7 b8 b9 : Byte}
  {m : Message}

/-! ### CHECK_LEN -/

theorem checkLen_of_lt (h : p.length < n) : checkLen pol p n = .err .short := if_pos h

theorem checkLen_of_reject (h : n < p.length) (hpol : pol = .reject) : checkLen pol p n = .err .excess := by
  rw [checkLen, if_neg h.not_gt, if_pos ⟨h, hpol⟩]

theorem checkLen_of_length_eq (h : n = p.length) : checkLen pol p n = .ok := by
  rw [checkLen, if_neg h.not_gt, if_neg fun hexcess => hexcess.1.ne h]

theorem checkLen_of_ignore (h : n < p.length) (hpol : pol = .ignore) : checkLen pol p n = .ok := by
  rw [checkLen, if_neg h.not_gt, if_neg (by simp [hpol])]

/-- A list that starts with all `n` bytes: only the policy on what follows them is left to decide. -/
theorem checkLen_append (head : List Byte) :
    checkLen pol (head ++ extra) head.length = if extra ≠ [] ∧ pol = .reject then .err .excess else .ok := by
  have hlong : head.length < (head ++ extra).length ↔ extra ≠ [] := by
    rw [List.length_append, Nat.lt_add_right_iff_pos, List.length_pos_iff]
  have hnotShort : ¬ (head ++ extra).length < head.length := by simp
  rw [checkLen, if_neg hnotShort]
  simp only [hlong]

/-! ### The kind rules -/

theorem decodeKind_of_lt (h : p.length < n) (hn : n ≤ maxDataLen) : decodeKind pol n p m = .err .short := by
  rw [decodeKind_of_le (h.le.trans hn), checkLen_of_lt h]

/-- A payload that starts with the kind's whole layout `head` (43_message_codec R166). -/
theorem decodeKind_append (head : List Byte) (h : (head ++ extra).length ≤ maxDataLen) :
    decodeKind pol head.length (head ++ extra) m =
      if extra ≠ [] ∧ pol = .reject then .err .excess else .ok m := by
  rw [decodeKind_of_le h, checkLen_append]
  split_ifs <;> rfl

/-- The rule of the two kinds that are a discriminant alone (43_message_codec R162, R163). -/
theorem decodeKind_signal (h : rest.length + 1 ≤ maxDataLen) :
    decodeKind pol 1 (d :: rest) m = if rest ≠ [] ∧ pol = .reject then .err .excess else .ok m :=
  decodeKind_append [d] h

theorem decBroadcast_cons (h : extra.length + 11 ≤ maxDataLen) :
    decBroadcast pol (0x00 :: b0 :: b1 :: b2 :: b3 :: b4 :: b5 :: b6 :: b7 :: b8 :: b9 :: extra) =
      if extra ≠ [] ∧ pol = .reject then .err .excess
      else .ok (.broadcast #v[b0, b1, b2, b3, b4, b5, b6, b7, b8, b9]) :=
  decodeKind_append [0x00, b0, b1, b2, b3, b4, b5, b6, b7, b8, b9] h

/-- The field is little-endian (30_encoding R89). -/
theorem valueField_cons : valueField (d :: b0 :: b1 :: b2 :: b3 :: extra) = b3 ++ b2 ++ b1 ++ b0 :=
  le32_append b0 b1 b2 b3

/-- The rule of the two kinds that carry a value, `mk` being the kind's message (43_message_codec R164, R165). -/
theorem decodeKind_value (mk : Value → Message) (h : extra.length + 5 ≤ maxDataLen) :
    decodeKind pol 5 (d :: b0 :: b1 :: b2 :: b3 :: extra) (mk (valueField (d :: b0 :: b1 :: b2 :: b3 :: extra))) =
      if extra ≠ [] ∧ pol = .reject then .err .excess else .ok (mk (b3 ++ b2 ++ b1 ++ b0)) := by
  rw [valueField_cons]
  exact decodeKind_append [d, b0, b1, b2, b3] h

/-! ### The rows -/

theorem exec_decBroadcast (rest : List Byte) (s : State) : exec (.decBroadcast rest) s = .next { s with
    out := .decoded (decBroadcast s.cfg.excessPolicy (0x00 :: rest)), label := .none } := rfl

theorem exec_decDiscoveryRequest (rest : List Byte) (s : State) : exec (.decDiscoveryRequest rest) s = .next { s with
    out := .decoded (decDiscoveryRequest s.cfg.excessPolicy (0x01 :: rest)), label := .none } := rfl

theorem exec_decDiscoveryAck (rest : List Byte) (s : State) : exec (.decDiscoveryAck rest) s = .next { s with
    out := .decoded (decDiscoveryAck s.cfg.excessPolicy (0x02 :: rest)), label := .none } := rfl

theorem exec_decUpdateRequest (rest : List Byte) (s : State) : exec (.decUpdateRequest rest) s = .next { s with
    out := .decoded (decUpdateRequest s.cfg.excessPolicy (0x03 :: rest)), label := .none } := rfl

theorem exec_decSolenoidUpdate (rest : List Byte) (s : State) : exec (.decSolenoidUpdate rest) s = .next { s with
    out := .decoded (decSolenoidUpdate s.cfg.excessPolicy (0x04 :: rest)), label := .none } := rfl

theorem exec_msgDecode (p : List Byte) (s : State) : exec (.msgDecode p) s = .next { s with
    out := .decoded (msgDecode s.cfg.excessPolicy p), label := .none } := rfl

theorem exec_checkLen (p : List Byte) (n : Nat) (s : State) : exec (.checkLen p n) s = .next { s with
    out := .lenChecked (checkLen s.cfg.excessPolicy p n), label := .none } := rfl

theorem exec_decBroadcast_of_lt (h : rest.length < 10) :
    exec (.decBroadcast rest) s = .next { s with out := .decoded (.err .short), label := .none } := by
  rw [exec_decBroadcast, decBroadcast, decodeKind_of_lt (Nat.succ_lt_succ h) (by decide)]

theorem exec_decUpdateRequest_of_lt (h : rest.length < 4) :
    exec (.decUpdateRequest rest) s = .next { s with out := .decoded (.err .short), label := .none } := by
  rw [exec_decUpdateRequest, decUpdateRequest, decodeKind_of_lt (Nat.succ_lt_succ h) (by decide)]

theorem exec_decSolenoidUpdate_of_lt (h : rest.length < 4) :
    exec (.decSolenoidUpdate rest) s = .next { s with out := .decoded (.err .short), label := .none } := by
  rw [exec_decSolenoidUpdate, decSolenoidUpdate, decodeKind_of_lt (Nat.succ_lt_succ h) (by decide)]

/-! ### The dispatch on the discriminant -/

theorem discriminant_cases (d : Byte) :
    5 ≤ d.toNat ∨ d = 0x00 ∨ d = 0x01 ∨ d = 0x02 ∨ d = 0x03 ∨ d = 0x04 := by bv_omega

theorem ne_of_unrecognized (hd : 5 ≤ d.toNat) : d ≠ 0x00 ∧ d ≠ 0x01 ∧ d ≠ 0x02 ∧ d ≠ 0x03 ∧ d ≠ 0x04 := by bv_omega

theorem msgDecode_of_unrecognized (hd : 5 ≤ d.toNat) : msgDecode pol (d :: rest) = .err .unrecognized := by
  simp only [msgDecode, ne_of_unrecognized hd, if_false, decUnrecognized]

/-- From 05 on every row that the decoder can read has the one meaning (43_message_codec R167). -/
theorem exec_decodeDisc_of_unrecognized (hd : 5 ≤ d.toNat) :
    exec (decodeDisc d rest) s = .next { s with out := .decoded (.err .unrecognized), label := .none } := by
  simp only [decodeDisc, ne_of_unrecognized hd, if_false]
  split_ifs <;> rfl

theorem exec_msgDecode_of_unrecognized (hd : 5 ≤ d.toNat) :
    exec (.msgDecode (d :: rest)) s = .next { s with out := .decoded (.err .unrecognized), label := .none } := by
  rw [exec_msgDecode, msgDecode_of_unrecognized hd]

end Sys2Proof.Machine

open Sys2Proof Sys2Proof.Machine

/-- Settles O27: CHECK_LEN with the layout's 11 bytes decides. -/
theorem broadcastIsDecoded : Obligations.BroadcastIsDecoded := by
  intro s
  refine ⟨fun _ => exec_decBroadcast_of_lt, fun b0 b1 b2 b3 b4 b5 b6 b7 b8 b9 extra hlen => ?_,
    fun rest => ⟨_, exec_decBroadcast rest s⟩⟩
  rw [exec_decBroadcast, decBroadcast_cons hlen]

/-- Settles O29: CHECK_LEN with the layout's 5 bytes decides, the same for both kinds. -/
theorem valuesAreDecodedLittleEndian : Obligations.ValuesAreDecodedLittleEndian := by
  intro s
  refine ⟨fun rest hshort => ⟨exec_decUpdateRequest_of_lt hshort, exec_decSolenoidUpdate_of_lt hshort⟩,
    fun b0 b1 b2 b3 extra hlen => ⟨?_, ?_⟩,
    fun rest => ⟨⟨_, exec_decUpdateRequest rest s⟩, ⟨_, exec_decSolenoidUpdate rest s⟩⟩⟩
  · rw [exec_decUpdateRequest, decUpdateRequest, decodeKind_value .updateRequest hlen]
  · rw [exec_decSolenoidUpdate, decSolenoidUpdate, decodeKind_value .solenoidUpdate hlen]

/-- Settles O28: CHECK_LEN with 1 byte decides, and the discriminant alone is long enough. -/
theorem discoverySignalsAreDecoded : Obligations.DiscoverySignalsAreDecoded := by
  intro s rest
  refine ⟨fun hlen => ⟨?_, ?_⟩, ⟨_, exec_decDiscoveryRequest rest s⟩, ⟨_, exec_decDiscoveryAck rest s⟩⟩
  · rw [exec_decDiscoveryRequest, decDiscoveryRequest, decodeKind_signal hlen]
  · rw [exec_decDiscoveryAck, decDiscoveryAck, decodeKind_signal hlen]

/-- Settles O33, by the payload's discriminant: below 05 both sides are the kind's rule, from 05 on both are
Unrecognized. -/
theorem msgDecodeIsTheDecodedRow : Obligations.MsgDecodeIsTheDecodedRow := by
  intro s p
  cases p with
  | nil => rfl
  | cons d rest =>
    obtain hd | rfl | rfl | rfl | rfl | rfl := discriminant_cases d
    · rw [exec_msgDecode_of_unrecognized hd, decodePayload, exec_decodeDisc_of_unrecognized hd]
    all_goals rfl

/-- Settles O32, from the decoder's rows. -/
theorem msgDecodeDispatches : Obligations.MsgDecodeDispatches := fun s _ rest =>
  ⟨msgDecodeIsTheDecodedRow s [],
   msgDecodeIsTheDecodedRow s (0x00 :: rest),
   msgDecodeIsTheDecodedRow s (0x01 :: rest),
   msgDecodeIsTheDecodedRow s (0x02 :: rest),
   msgDecodeIsTheDecodedRow s (0x03 :: rest),
   msgDecodeIsTheDecodedRow s (0x04 :: rest),
   exec_msgDecode_of_unrecognized⟩

/-- Settles O30: all rows answer alike, and DECODE_STORE of a failure keeps the mailbox. -/
theorem unknownDiscriminantsFail : Obligations.UnknownDiscriminantsFail := by
  intro s rest x1 x3 x4 x5 x6 x7 i d hd
  refine ⟨fun hi => ?_, exec_msgDecode_of_unrecognized hd, fun hcompleted hlen hdata => ?_⟩
  · simp only [List.mem_cons, List.not_mem_nil, or_false] at hi
    obtain rfl | rfl | rfl | rfl | rfl | rfl | rfl := hi <;> rfl
  · obtain ⟨-, hfail⟩ := decodeStoreFillsTheMailbox s hcompleted hlen
    exact hfail _ (by rw [hdata, msgDecode_of_unrecognized hd])

/-- Settles O31: MSG_DECODE is the row of its discriminant, and that row's CHECK_LEN fails. -/
theorem truncatedPayloadIsShort : Obligations.TruncatedPayloadIsShort := by
  intro s d rest
  have hrow := msgDecodeIsTheDecodedRow s (d :: rest)
  refine ⟨rfl, rfl, ?_⟩
  rintro (⟨rfl, hlen⟩ | ⟨rfl | rfl, hlen⟩)
  · exact hrow.trans (exec_decBroadcast_of_lt (Nat.lt_of_succ_lt_succ hlen))
  · exact hrow.trans (exec_decUpdateRequest_of_lt (Nat.lt_of_succ_lt_succ hlen))
  · exact hrow.trans (exec_decSolenoidUpdate_of_lt (Nat.lt_of_succ_lt_succ hlen))

/-- Settles O34, by the comparison of the length with `n`. -/
theorem checkLenComparesTheLength : Obligations.CheckLenComparesTheLength := by
  intro s p n
  refine ⟨fun hshort => ?_, fun hlong hpol => ?_, ?_⟩
  · rw [exec_checkLen, checkLen_of_lt hshort]
  · rw [exec_checkLen, checkLen_of_reject hlong hpol]
  · rintro (heq | ⟨hlong, hpol⟩)
    · rw [exec_checkLen, checkLen_of_length_eq heq]
    · rw [exec_checkLen, checkLen_of_ignore hlong hpol]

end

section
/-! The message encoder and the SolenoidUpdate record (spec/43_message_codec.md R169 to R177). -/

namespace Sys2Proof.Machine

variable {s : State}

/-! ### The rows -/

theorem exec_msgEncode (m : Message) (s : State) :
    exec (.msgEncode m) s = .next { s with out := .bytes (msgEncode m), label := .none } := rfl

theorem exec_solenoid (inputs : BitVec 12) (outputs : BitVec 7) (reserved : BitVec 13) (s : State) :
    exec (.solenoid inputs outputs reserved) s =
      .next { s with out := .record (solenoid inputs outputs reserved), label := .none } := rfl

/-! ### The record's fields -/

section
variable (inputs : BitVec 12) (outputs : BitVec 7) (reserved : BitVec 13)

theorem solenoid_append : solenoid inputs outputs reserved = reserved ++ outputs ++ inputs := by
  apply BitVec.eq_of_getLsbD_eq
  intro i hi
  simp only [solenoid, BitVec.getLsbD_or, BitVec.getLsbD_shiftLeft, BitVec.getLsbD_setWidth, BitVec.getLsbD_append]
  interval_cases i <;> simp

theorem solenoidInputs_append : solenoidInputs (reserved ++ outputs ++ inputs) = inputs :=
  BitVec.extractLsb'_append_eq_right

theorem solenoidOutputs_append : solenoidOutputs (reserved ++ outputs ++ inputs) = outputs :=
  (BitVec.extractLsb'_append_eq_of_le (Nat.le_refl 12)).trans BitVec.extractLsb'_append_eq_right

theorem solenoidReserved_append : solenoidReserved (reserved ++ outputs ++ inputs) = reserved :=
  (BitVec.extractLsb'_append_eq_of_le (by decide)).trans BitVec.extractLsb'_append_eq_left

end

theorem decode_solenoid_of_wide (x : Ctx) {i o r : Nat} (h : 4096 ≤ i ∨ 128 ≤ o ∨ 8192 ≤ r) :
    decode x (.solenoid i o r) = .bad .solenoidFieldTooWide :=
  if_neg (by omega)

end Sys2Proof.Machine

open Sys2Proof Sys2Proof.Machine

/-- Settles O35: each row is its kind's layout. -/
theorem encodersGiveTheLayout : Obligations.EncodersGiveTheLayout := fun _ _ _ _ _ _ _ _ _ _ _ _ =>
  ⟨rfl, rfl, rfl, rfl, rfl⟩

/-- Settles O36: the dispatch is by the kind, and no kind is longer than 11 bytes. -/
theorem msgEncodeDispatches : Obligations.MsgEncodeDispatches := fun s _ _ =>
  ⟨rfl, rfl, rfl, rfl, rfl, fun m => ⟨msgEncode m, exec_msgEncode m s, (msgEncode_length m).trans_le (kindLength_le _)⟩⟩

/-- Settles O37: the decoder undoes the encoder under either policy. -/
theorem messageRoundTrip : Obligations.MessageRoundTrip := by
  intro s m
  refine ⟨msgEncode m, exec_msgEncode m s, ?_⟩
  rw [exec_msgDecode, msgDecode_msgEncode]

/-- Settles O38: the record is the concatenation of its fields. -/
theorem solenoidFieldsRoundTrip : Obligations.SolenoidFieldsRoundTrip := by
  intro s x inputs outputs reserved i o r
  refine ⟨⟨_, exec_solenoid inputs outputs reserved s, solenoid_append inputs outputs reserved, ?_⟩,
    decode_solenoid_of_wide x⟩
  rw [solenoid_append]
  exact ⟨solenoidInputs_append inputs outputs reserved, solenoidOutputs_append inputs outputs reserved,
    solenoidReserved_append inputs outputs reserved⟩

end

section
/-! The frame encoder (spec/44_transport.md R190 to R195): the two send-time errors, and the words of a frame that is
sent. -/

namespace Sys2Proof.Machine

variable {r : State} {c : Cfg} {a : Byte} {p : List Byte} {ws : List Symbol}

/-! ### TX_FRAME by its conditions -/

theorem exec_txFrame (a : Byte) (p : List Byte) (s : State) : exec (.txFrame a p) s = .next { s with
    out := .frame (txFrame s.cfg a p), label := .none } := rfl

theorem exec_txMessage_eq_txFrame (a : Byte) (m : Message) (s : State) :
    exec (.txMessage a m) s = exec (.txFrame a (msgEncode m)) s := rfl

theorem txFrame_of_long (h : maxDataLen < p.length) : txFrame c a p = .error .frameTooLong := if_pos h

theorem txFrame_to_self (hp : p.length ≤ maxDataLen) (ha : a = c.localAddr) (hoff : c.loopback = false) :
    txFrame c a p = .error .sendToSelf := by
  rw [txFrame, if_neg (Nat.not_lt.2 hp), if_pos ⟨ha, hoff⟩]

theorem txFrame_of_sendable (hp : p.length ≤ maxDataLen) (ha : a ≠ c.localAddr ∨ c.loopback = true) :
    txFrame c a p = .words (frameWords c a p) := by
  have hself : ¬(a = c.localAddr ∧ c.loopback = false) := by
    rintro ⟨heq, hoff⟩
    exact ha.elim (absurd heq) fun hon => Bool.noConfusion (hon.symm.trans hoff)
  rw [txFrame, if_neg (Nat.not_lt.2 hp), if_neg hself]

/-- A TX_FRAME that answers words has sent the frame, and the payload fits it. -/
theorem exec_txFrame_words (h : exec (.txFrame a p) r = .next { r with out := .frame (.words ws), label := .none }) :
    p.length ≤ maxDataLen ∧ ws = frameWords r.cfg a p := by
  rw [exec_txFrame] at h
  injection congrArg State.out (next_inj h) with hframe
  exact txFrame_eq_words hframe

/-! ### The words bit by bit -/

theorem checkWords_of_integrity_off (h : c.integrity = false) : checkWords c a p = [] := by
  rw [checkWords, if_neg (by simp [h])]

theorem checkWords_of_integrity_on (h : c.integrity = true) :
    checkWords c a p =
      [0b0#1 ++ (Config.checkFn c.checkSel a (BitVec.ofNat 8 p.length) p).extractLsb' 0 8,
       0b0#1 ++ (Config.checkFn c.checkSel a (BitVec.ofNat 8 p.length) p).extractLsb' 8 8] := by
  rw [checkWords, if_pos h, bytesLe16, List.map_cons, List.map_singleton, wordEncodeData_append,
    wordEncodeData_append]

/-- Only the address word has the marker set (44_transport R193). -/
theorem frameWords_eq_markers (c : Cfg) (a : Byte) (p : List Byte) :
    frameWords c a p =
      ((0b1#1 ++ a) :: (0b0#1 ++ BitVec.ofNat 8 p.length) :: p.map fun b => (0b0#1 ++ b : Symbol)) ++
        checkWords c a p := by
  rw [frameWords, wordEncodeAddr_append, funext wordEncodeData_append]

theorem frameWords_length (c : Cfg) (a : Byte) (p : List Byte) :
    (frameWords c a p).length = p.length + (if c.integrity then 4 else 2) := by
  cases hi : c.integrity
  · simp [frameWords, checkWords_of_integrity_off hi]
  · simp [frameWords, checkWords_of_integrity_on hi]

end Sys2Proof.Machine

open Sys2Proof Sys2Proof.Machine

/-- Settles O40: the frame is sent, and its words are spelled out under each setting of INTEGRITY. -/
theorem frameWordsAreSent : Obligations.FrameWordsAreSent := by
  intro s a p hp ha
  refine ⟨frameWords s.cfg a p, ?_, rfl, fun hoff => ?_, fun hon => ?_, frameWords_length s.cfg a p⟩
  · rw [exec_txFrame, txFrame_of_sendable hp ha]
  · rw [frameWords_eq_markers, checkWords_of_integrity_off hoff, List.append_nil]
  · rw [frameWords_eq_markers, checkWords_of_integrity_on hon]

/-- Settles O39, by the three answers of TX_FRAME. -/
theorem sendErrorsAreReported : Obligations.SendErrorsAreReported := by
  intro s a p
  refine ⟨fun hlong => ?_, fun hp ha hoff => ?_, fun hp ha => ⟨frameWords s.cfg a p, ?_⟩, rfl, rfl⟩
  · rw [exec_txFrame, txFrame_of_long hlong]
  · rw [exec_txFrame, txFrame_to_self hp ha hoff]
  · rw [exec_txFrame, txFrame_of_sendable hp ha]

/-- Settles O41: an encoded message is never too long for a frame. -/
theorem txMessageFailsOnlyToSelf : Obligations.TxMessageFailsOnlyToSelf := by
  intro s a m
  have hp := msgEncode_length_le m
  rw [exec_txMessage_eq_txFrame, exec_txFrame]
  refine ⟨rfl, fun ha hoff => ?_, fun ha => ⟨frameWords s.cfg a (msgEncode m), ?_⟩⟩
  · rw [txFrame_to_self hp ha hoff]
  · rw [txFrame_of_sendable hp ha]

end

section
/-! The check phase run by itself (spec/44_transport.md R196). -/

namespace Sys2Proof.Machine

variable {s : State}

theorem checkByte_low (h : s.ckCount = 0) (b : Byte) : checkByte b s = .next (s.checkLow b, .ckLo) := if_pos h

/-- The second check byte decides by the comparison with CHECK_FN. -/
theorem checkByte_high (h : s.ckCount = 1) (hd : s.declLen.toNat ≤ bufSize) (b : Byte) :
    checkByte b s =
      if b ++ s.ckLo = Config.checkFn s.cfg.checkSel s.cfg.localAddr s.declLen s.assembled then
        .next (s.checkTaken.complete, .done)
      else .next (s.checkTaken.enterError, .ckFail) := by
  rw [checkByte, if_neg (by simp [h]), payload_of_le hd, andThen_next, le16_append, State.assembled]

end Sys2Proof.Machine

open Sys2Proof Sys2Proof.Machine

/-- Settles O15: the dispatch selects the check phase, and `ckCount` tells which of the two bytes has come. -/
theorem checkBytesAreVerified : Obligations.CheckBytesAreVerified := by
  intro s b hr hl hc hd hi
  have hsel := rxSelect_check (x := s.ctx) hr hl hc hi b
  refine ⟨fun hk => ?_, fun hk hmatch => ?_, fun hk hdiffer => ?_⟩
  · exact exec_instr_of_effect hsel (checkByte_low hk b)
  · exact exec_instr_of_effect hsel ((checkByte_high hk hd b).trans (if_pos hmatch))
  · exact exec_instr_of_effect hsel ((checkByte_high hk hd b).trans (if_neg hdiffer))

end

section
/-! A frame sent is a frame received (spec/44_transport.md R198), and the message it carries arrives in the mailbox
(R200). -/

namespace Sys2Proof.Machine

variable {u : State} {c : Cfg} {p : List Byte}

theorem FrameDone.finish (h : FrameDone c p u) (o : Output) (l : Label) : FrameDone c p (u.finish o l) :=
  { h with }

theorem FrameDone.setMailbox (h : FrameDone c p u) (m : Option Message) : FrameDone c p (u.setMailbox m) :=
  { h with }

/-- The trigger's label is STORED or FAIL, and DECODE_STORE leaves the received frame as it is. -/
theorem storeDone_of_frameDone (h : FrameDone c p u) (hp : p.length ≤ maxDataLen) :
    ∃ t d, storeDone u = .next t ∧ FrameDone c p t ∧ t.label = .ingest .done d ∧ d ≠ .none := by
  rw [storeDone, decodeStore_of_le (h.declLen.trans_le hp)]
  cases msgDecode u.cfg.excessPolicy u.assembled with
  | ok m => exact ⟨_, _, rfl, (h.setMailbox (some m)).finish .nothing _, rfl, nofun⟩
  | err e => exact ⟨_, _, rfl, h.finish .nothing _, rfl, nofun⟩

theorem FrameDone.exec_dataRead (h : FrameDone c p u) (hp : p.length ≤ maxDataLen) :
    exec .dataRead u = .next { u with out := .bytes p, label := .none } := by
  rw [exec_dataRead_of_le (h.declLen.trans_le hp), h.assembled, State.finish]

end Sys2Proof.Machine

open Sys2Proof Sys2Proof.Machine

/-- Settles O42: the words sent are those of the receiver's own configuration; they complete the frame, and the
trigger that the last one fires does not change it. -/
theorem frameRoundTrip : Obligations.FrameRoundTrip := by
  intro r s p ws hsent hi hf hlim
  obtain ⟨hp, rfl⟩ := exec_txFrame_words hsent
  rw [frameWords_congr hi hf]
  obtain ⟨u, hu, hwords⟩ := ingestAll_frameWords hp hlim
  obtain ⟨t, d, hstore, ht, hlabel, hfired⟩ := storeDone_of_frameDone hu hp
  exact ⟨t, hwords.trans hstore, ht.rxState, ht.exec_dataRead hp, d, hfired, hlabel⟩

/-- Settles O43: the frame of the encoded message completes, and DECODE_STORE decodes the message again. -/
theorem messageArrivesOverAFrame : Obligations.MessageArrivesOverAFrame := by
  intro r s m ws hsent hi hf hlim
  rw [exec_txMessage_words hsent, frameWords_congr hi hf]
  obtain ⟨t, hwords, -, hbox, hlabel⟩ := ingestAll_message hlim
  exact ⟨t, hwords, hbox, hlabel⟩

end

section
/-! Requests presented at once are served one a step (spec/60_exceptions.md R215, spec/20_memory.md R69). -/

namespace Sys2Proof.Machine

variable {s : State} {q q' : Request} {more : List Request} {rest : List (List Request)}

/-- Which of the requests presented at once the next choice takes: a free value (notes/assumptions/3.md). -/
def State.choice (s : State) (group : List Request) : Nat := Config.pick s.draws % group.length

theorem State.choice_lt (s : State) {group : List Request} (h : group ≠ []) : s.choice group < group.length :=
  Nat.mod_lt _ (List.length_pos_of_ne_nil h)

theorem fetch_single (h : s.pending = [q] :: rest) : fetch s = some (q, s.setPending rest s.draws) := by
  rw [fetch, h, fetchFrom, Option.map_some]

theorem fetch_group (h : s.pending = (q :: q' :: more) :: rest) :
    fetch s = some ((q :: q' :: more).getD (s.choice (q :: q' :: more)) q,
      s.setPending ((q :: q' :: more).eraseIdx (s.choice (q :: q' :: more)) :: rest) (s.draws + 1)) := by
  rw [fetch, h, fetchFrom, Option.map_some, State.choice]

theorem step_of_pending_nil (h : s.pending = []) : step s = .next s := by
  simp only [step, fetch, h, fetchFrom, Option.map_none]

end Sys2Proof.Machine

open Sys2Proof Sys2Proof.Machine

/-- Settles O54, by the form of the input: the choice among several lies within the group, whatever it is. -/
theorem requestsAreSerialised : Obligations.RequestsAreSerialised := by
  intro s q q' more rest
  refine ⟨fetch_single, fun h => ?_, step_of_pending_nil⟩
  have hlt := s.choice_lt (List.cons_ne_nil q (q' :: more))
  have hfetch := fetch_group h
  rw [List.getD_eq_getElem _ _ hlt] at hfetch
  exact ⟨_, _, List.getElem?_eq_getElem hlt, hfetch⟩

end

section
/-! The block never traps (spec/60_exceptions.md R210): under the invariant every operation has a next state. -/

namespace Sys2Proof.Machine

variable {s : State} {α β : Type}

/-- A result that is no fault and no refusal. -/
def Completes (r : Res α) : Prop := ∃ a, r = .next a

theorem completes_next (a : α) : Completes (.next a) := ⟨a, rfl⟩

theorem Completes.andThen {r : Res α} {f : α → Res β} (hr : Completes r)
    (hf : ∀ a, r = .next a → Completes (f a)) : Completes (andThen r f) := by
  obtain ⟨a, rfl⟩ := hr
  exact hf a rfl

/-- A step that ends with the label of its last operation. -/
theorem Completes.finish {r : Res (State × β)} (hr : Completes r) (f : β → Label) :
    Completes (Machine.andThen r fun p => .next (p.1.finish .nothing (f p.2))) :=
  hr.andThen fun _ _ => completes_next _

/-! ### The shared operations -/

/-- The declared length fits the buffer in every phase (10_state R38). -/
theorem Inv.declLen_le (h : Inv s) : s.declLen.toNat ≤ bufSize := by
  cases hl : s.lenValid with
  | false =>
    obtain ⟨-, -, hd⟩ := h.lengthPhase hl
    simp [hd]
  | true =>
    obtain ⟨hd, hm, -⟩ := h.lengthBound hl
    exact hd.trans hm

theorem Inv.payload_completes (h : Inv s) : Completes s.payload := ⟨_, payload_of_le h.declLen_le⟩

/-- The dispatch is total: the position R121 leaves open is none of the invariant's (41_receiver R121). -/
theorem Inv.rxSelect_isSome (h : Inv s) (b : Byte) : ∃ c, rxSelect s.ctx b = some c := by
  by_cases hr : s.rxState = .receiving
  · cases hl : s.lenValid with
    | false =>
      by_cases hb : s.cfg.lenLimit.toNat < b.toNat
      · exact ⟨_, rxSelect_lenReject (x := s.ctx) hr hl hb⟩
      · by_cases h0 : b = 0x00
        · exact ⟨_, h0 ▸ rxSelect_lenZero (x := s.ctx) hr hl⟩
        · exact ⟨_, rxSelect_lenOk (x := s.ctx) hr hl h0 (Nat.not_lt.1 hb)⟩
    | true =>
      obtain hc | ⟨hi, hc, -⟩ := h.receiving hr hl
      · exact ⟨_, rxSelect_payload (x := s.ctx) hr hl hc b⟩
      · exact ⟨_, rxSelect_check (x := s.ctx) hr hl hc hi b⟩
  · exact ⟨_, rxSelect_drop (x := s.ctx) hr b⟩

/-- A case rule where its dispatch selects it: the stored byte lies within the buffer, and so does `data()`. -/
theorem Inv.rxEffect_completes {c : RxCase} {b : Byte} (h : Inv s) (hsel : rxSelect s.ctx b = some c) :
    Completes (rxEffect c b s) := by
  cases c
  case payload =>
    obtain ⟨-, -, hc⟩ := rxSelect_eq_some hsel
    have heff : rxEffect .payload b s = _ := storePayload_of_lt (hc.trans_le h.declLen_le) b
    rw [heff]
    split <;> exact completes_next _
  case check =>
    simp only [rxEffect, checkByte]
    split
    · exact completes_next _
    · refine h.payload_completes.andThen fun p _ => ?_
      split <;> exact completes_next _
  all_goals exact completes_next _

theorem Inv.addToBuffer_completes (h : Inv s) (b : Byte) : Completes (addToBuffer b s) := by
  obtain ⟨c, hsel⟩ := h.rxSelect_isSome b
  rw [addToBuffer_of_select hsel]
  exact h.rxEffect_completes hsel

theorem Inv.decodeStore_completes (h : Inv s) : Completes (decodeStore s) := by
  refine h.payload_completes.andThen fun p _ => ?_
  split <;> exact completes_next _

theorem Inv.completionTrigger_completes (h : Inv s) (before : RxState) : Completes (completionTrigger before s) := by
  unfold completionTrigger
  split
  · exact h.decodeStore_completes
  · exact completes_next _

theorem matchWord_completes (s : State) : Completes (matchWord s) := ⟨_, matchWord_eq s⟩

theorem Inv.feedByte_completes (h : Inv s) (b : Byte) : Completes (feedByte b s) := by
  refine (h.addToBuffer_completes b).andThen ?_
  rintro ⟨u, l⟩ hu
  obtain ⟨c, hsel, heff⟩ := addToBuffer_next hu
  exact ((h.after_rxEffect hsel heff).completionTrigger_completes s.rxState).finish (.ingest l)

/-! ### The rows -/

theorem rxCase_instr_inj {c c' : RxCase} {b : Byte} (h : c.instr b = c'.instr b) : c = c' := by
  cases c <;> cases c' <;> cases h <;> rfl

/-- A row of RXBYTE is well formed only where the dispatch selects it, since its byte decodes to it. -/
theorem rxSelect_of_wf {x : Ctx} {c : RxCase} {b : Byte} (hwf : (c.instr b).wf x = true)
    (henc : encode (c.instr b) = .rxByte b) : rxSelect x b = some c := by
  have hdec := decodeOfEncode x _ hwf
  rw [henc, decode] at hdec
  split at hdec
  · next c' hsel => rw [hsel, rxCase_instr_inj (Decoded.ok.inj hdec)]
  · cases hdec

theorem Inv.rxRow_completes (h : Inv s) (c : RxCase) {b : Byte} (hwf : (c.instr b).wf s.ctx = true)
    (henc : encode (c.instr b) = .rxByte b) : Completes (exec (c.instr b) s) := by
  have hsel := rxSelect_of_wf hwf henc
  rw [exec_instr_of_select hsel]
  exact (h.rxEffect_completes hsel).finish .rx

/-- The rows of a received word (42_parser R140), START apart: INGEST of any word, DATA, and FOREIGN_ADDR under its
selection condition in `s`. -/
inductive IsWord (s : State) : Instr → Prop where
  | ingest (w : Symbol) : IsWord s (.ingest w)
  | data (d : Byte) : IsWord s (.data d)
  | foreignAddr {a : Byte} (ha : a ≠ s.cfg.localAddr) : IsWord s (.foreignAddr a)

/-- A word begins a frame or feeds its byte. -/
theorem IsWord.exec_eq {i : Instr} (hi : IsWord s i) : exec i s = matchWord s ∨ ∃ b, exec i s = feedByte b s := by
  cases hi with
  | ingest w =>
    by_cases hw : notMatching s.cfg.localAddr w
    · exact .inr (exec_ingest_of_notMatching hw)
    · rw [not_not.1 hw, exec_ingest_addr, if_pos rfl]
      exact .inl rfl
  | data d => exact .inr ⟨d, exec_data d s⟩
  | foreignAddr ha => exact .inr ⟨_, exec_foreignAddr_of_ne ha⟩

theorem Inv.word_completes {i : Instr} (h : Inv s) (hi : IsWord s i) : Completes (exec i s) := by
  obtain he | ⟨b, he⟩ := hi.exec_eq <;> rw [he]
  · exact matchWord_completes s
  · exact h.feedByte_completes b

/-- Every row: the words, the Receiver and the Parser by the invariant, RESET by its check of the configuration. -/
theorem Inv.exec_completes {i : Instr} (h : Inv s) (hwf : i.wf s.ctx = true)
    (hdone : i = .decodeStore → s.rxState = .completed) : Completes (exec i s) := by
  cases i
  case start a =>
    rw [exec_start_of_eq (beq_iff_eq.1 hwf)]
    exact matchWord_completes s
  case foreignAddr a => exact h.word_completes (.foreignAddr (bne_iff_ne.1 hwf))
  case data d => exact h.word_completes (.data d)
  case ingest w => exact h.word_completes (.ingest w)
  case rxLenReject b => exact h.rxRow_completes .lenReject hwf rfl
  case rxLenOk b => exact h.rxRow_completes .lenOk hwf rfl
  case rxLenZero => exact h.rxRow_completes .lenZero (b := 0x00) hwf rfl
  case rxPayload b => exact h.rxRow_completes .payload hwf rfl
  case rxDrop b => exact h.rxRow_completes .drop hwf rfl
  case rxCheck b => exact h.rxRow_completes .check hwf rfl
  case addToBuffer b => exact (h.addToBuffer_completes b).finish .rx
  case dataRead => exact h.payload_completes.andThen fun _ _ => completes_next _
  case completionTrigger before => exact (h.completionTrigger_completes before).finish .dec
  case decodeStore =>
    rw [exec_decodeStore_of_completed (hdone rfl)]
    exact h.decodeStore_completes.finish .dec
  case reset c => exact ⟨_, execReset_of_none ((checkCfg_eq_none c).2 hwf) s⟩
  -- what is left, POLL and the pure functions, answers in every state
  all_goals exact completes_next _

end Sys2Proof.Machine

open Sys2Proof Sys2Proof.Machine

/-- Settles O57, row by row. -/
theorem everyOperationCompletes : Obligations.EveryOperationCompletes := fun _ _ h => h.exec_completes

end

section
/-! The frame of a received word (spec/42_parser.md R140), and the exits of Error and Completed (spec/60_exceptions.md
R217): outside Receiving a byte is dropped, and the trigger writes the mailbox alone. -/

namespace Sys2Proof.Machine

variable {s t u : State} {b : Byte}

/-- Outside Receiving the only case is the drop (41_receiver R126). -/
theorem rxEffect_eq_of_not_receiving {c : RxCase} {l : RxLabel} (hr : s.rxState ≠ .receiving)
    (hsel : rxSelect s.ctx b = some c) (heff : rxEffect c b s = .next (u, l)) : u = s := by
  cases Option.some.inj ((rxSelect_drop (x := s.ctx) hr b).symm.trans hsel)
  exact (rxEffect_next heff).1

/-! ### The frame of a word -/

/-- What a received word leaves as it was in `s`, and what it returns (42_parser R140). -/
structure WordFrame (s t : State) : Prop where
  cfg     : t.cfg = s.cfg
  pending : t.pending = s.pending
  draws   : t.draws = s.draws
  out     : t.out = .nothing
  label   : ∃ l d, t.label = .ingest l d
  buf     : ∀ j, j ≠ s.count.val → memRead j t.buf = memRead j s.buf
  mailbox : t.mailbox = s.mailbox ∨ t.rxState = .completed
  ckLo    : t.ckLo = s.ckLo ∨ s.rxState = .receiving

theorem matchWord_frame (h : matchWord s = .next t) : WordFrame s t := by
  rw [matchWord_eq] at h
  cases h
  exact ⟨rfl, rfl, rfl, rfl, ⟨_, _, rfl⟩, fun _ _ => rfl, .inl rfl, .inl rfl⟩

theorem feedByte_frame (h : feedByte b s = .next t) : WordFrame s t := by
  obtain ⟨c, u, l, v, d, hsel, heff, htrig, rfl⟩ := feedByte_next h
  obtain ⟨hbox, hcfg, -, -, hpending, hdraws⟩ := rxEffect_frame heff
  have hbuf := (rxEffect_writesOnlyAtCount hsel heff).1
  have hstore := completionTrigger_keepsOrStores htrig
  have hlow : u.ckLo = s.ckLo ∨ s.rxState = .receiving := by
    by_cases hr : s.rxState = .receiving
    · exact .inr hr
    · exact .inl (congrArg State.ckLo (rxEffect_eq_of_not_receiving hr hsel heff))
  obtain ⟨m, rfl⟩ := completionTrigger_mailbox htrig
  exact ⟨hcfg, hpending, hdraws, rfl, ⟨_, _, rfl⟩, hbuf, hstore.imp (·.trans hbox) (·.1), hlow⟩

theorem IsWord.frame {i : Instr} (hi : IsWord s i) (h : exec i s = .next t) : WordFrame s t := by
  obtain he | ⟨b, he⟩ := hi.exec_eq
  · exact matchWord_frame (he.symm.trans h)
  · exact feedByte_frame (he.symm.trans h)

/-! ### The exits of Error and Completed -/

theorem completionTrigger_rxState {before : RxState} {d : DecLabel}
    (h : completionTrigger before s = .next (t, d)) : t.rxState = s.rxState := by
  obtain ⟨m, rfl⟩ := completionTrigger_mailbox h
  rfl

theorem decodeStore_rxState {d : DecLabel} (h : decodeStore s = .next (t, d)) : t.rxState = s.rxState := by
  obtain ⟨m, rfl⟩ := decodeStore_mailbox h
  rfl

/-- Outside Receiving the Receiver's state is kept by every form of a next state but START's and RESET's. -/
theorem effect_rxState {i : Instr} (hr : s.rxState ≠ .receiving) (he : Effect i s t) :
    t.rxState = s.rxState ∨
    (t.rxState = .receiving ∧ (i = .start s.cfg.localAddr ∨ i = .ingest (wordEncodeAddr s.cfg.localAddr))) ∨
    (t.rxState = .idle ∧ ∃ c, i = .reset c) := by
  cases he with
  | pure o => exact .inl rfl
  | rx hsel heff => exact .inl (by rw [State.finish_rxState, rxEffect_eq_of_not_receiving hr hsel heff])
  | word hsel heff htrig =>
    have hu := rxEffect_eq_of_not_receiving hr hsel heff
    exact .inl (by rw [State.finish_rxState, completionTrigger_rxState htrig, hu])
  | start hi => exact .inr (.inl ⟨rfl, hi⟩)
  | trigger htrig => exact .inl (by rw [State.finish_rxState, completionTrigger_rxState htrig])
  | decode _ hdec => exact .inl (by rw [State.finish_rxState, decodeStore_rxState hdec])
  | poll _ => exact .inl rfl
  | reset hi _ => exact .inr (.inr ⟨rfl, _, hi⟩)

end Sys2Proof.Machine

open Sys2Proof Sys2Proof.Machine

/-- Settles O8: a word completes under the invariant, and its frame is that of a START or of a fed byte. -/
theorem everyWordCompletes : Obligations.EveryWordCompletes := by
  intro s h i hi
  have hword : IsWord s i := by
    obtain ⟨w, rfl⟩ | ⟨d, rfl⟩ | ⟨a, ha, rfl⟩ := hi
    · exact .ingest w
    · exact .data d
    · exact .foreignAddr ha
  obtain ⟨t, he⟩ := h.word_completes hword
  obtain ⟨hcfg, hpending, hdraws, hout, hlabel, hbuf, hbox, hlow⟩ := hword.frame he
  exact ⟨t, he, hcfg, hpending, hdraws, hout, hlabel, hbuf, hbox, hlow⟩

/-- Settles O60, by the form of the next state. -/
theorem errorIsLeftByStartOrReset : Obligations.ErrorIsLeftByStartOrReset := by
  intro i s t he hr
  have hout : s.rxState ≠ .receiving := by obtain h | h := hr <;> simp [h]
  exact effect_rxState hout (exec_effect he)

end

section
/-! Words after a complete frame (spec/70_reset_and_hazards.md R246, R248, R253): outside Receiving a word's byte is
dropped, and under `level` the trigger stores the frame's message again. -/

namespace Sys2Proof.Machine

variable {s : State} {before : RxState} {m : Message} {l : RxLabel} {c : Cfg}

/-! ### The end of an INGEST by whether the trigger fires -/

theorem decodeStore_of_ok (hd : s.declLen.toNat ≤ bufSize)
    (hm : msgDecode s.cfg.excessPolicy s.assembled = .ok m) :
    decodeStore s = .next (s.setMailbox (some m), .stored (kindOf m)) := by
  rw [decodeStore_of_le hd, hm]

theorem finishIngest_of_not_fires (h : ¬ triggerFires before s = true) :
    finishIngest before s l = .next (s.finish .nothing (.ingest l .none)) := by
  rw [finishIngest, completionTrigger, if_neg h, andThen_next]

theorem finishIngest_of_stored (h : triggerFires before s = true) (hd : s.declLen.toNat ≤ bufSize)
    (hm : msgDecode s.cfg.excessPolicy s.assembled = .ok m) :
    finishIngest before s l =
      .next ((s.setMailbox (some m)).finish .nothing (.ingest l (.stored (kindOf m)))) := by
  rw [finishIngest, completionTrigger, if_pos h, decodeStore_of_ok hd hm, andThen_next]

/-! ### A dropped word -/

/-- Outside Receiving a fed byte leaves the trigger alone to act (41_receiver R126). -/
theorem feedByte_of_not_receiving (hr : s.rxState ≠ .receiving) (b : Byte) :
    feedByte b s = finishIngest s.rxState s .drop := by
  rw [feedByte, addToBuffer_of_select (rxSelect_drop (x := s.ctx) hr b), rxEffect, andThen_next, dropByte]

theorem feedByte_of_completed_level (hr : s.rxState = .completed) (hlevel : s.cfg.decodeTrigger = .level)
    (hd : s.declLen.toNat ≤ bufSize) (hm : msgDecode s.cfg.excessPolicy s.assembled = .ok m) (b : Byte) :
    feedByte b s = .next ((s.setMailbox (some m)).finish .nothing (.ingest .drop (.stored (kindOf m)))) := by
  rw [feedByte_of_not_receiving (by simp [hr]),
    finishIngest_of_stored ((triggerFires_of_level hlevel).2 hr) hd hm]

theorem feedByte_of_completed_edge (hr : s.rxState = .completed) (hedge : s.cfg.decodeTrigger = .edge) (b : Byte) :
    feedByte b s = .next (s.finish .nothing (.ingest .drop .none)) := by
  have hno : ¬ triggerFires s.rxState s = true := fun hfires => ((triggerFires_of_edge hedge).1 hfires).2 hr
  rw [feedByte_of_not_receiving (by simp [hr]), finishIngest_of_not_fires hno]

/-! ### The check words of a sender with INTEGRITY on, at a receiver with it off -/

/-- The frame with the payload `msgEncode m` is complete and `m` is in the mailbox. -/
structure Delivered (c : Cfg) (m : Message) (s : State) : Prop where
  frame   : FrameDone c (msgEncode m) s
  mailbox : s.mailbox = some m

theorem Delivered.finish (h : Delivered c m s) (o : Output) (l : Label) : Delivered c m (s.finish o l) :=
  ⟨h.frame.finish o l, h.mailbox⟩

theorem FrameDone.delivered (h : FrameDone c (msgEncode m) s) : Delivered c m (s.setMailbox (some m)) :=
  ⟨h.setMailbox (some m), rfl⟩

/-- A data word after the frame is dropped; at most it stores the same message again. -/
theorem Delivered.exec_ingest_data (h : Delivered c m s) (b : Byte) :
    ∃ t d, exec (.ingest (wordEncodeData b)) s = .next t ∧ Delivered c m t ∧ t.label = .ingest .drop d := by
  rw [ingest_data]
  cases htrig : s.cfg.decodeTrigger with
  | edge => exact ⟨_, _, feedByte_of_completed_edge h.frame.rxState htrig b, h.finish .nothing _, rfl⟩
  | level =>
    have hd : s.declLen.toNat ≤ bufSize := h.frame.declLen.trans_le (msgEncode_length_le m)
    have hm : msgDecode s.cfg.excessPolicy s.assembled = .ok m := by rw [h.frame.assembled, msgDecode_msgEncode]
    exact ⟨_, _, feedByte_of_completed_level h.frame.rxState htrig hd hm b, h.frame.delivered.finish .nothing _, rfl⟩

theorem ingestAll_delivered (hlim : kindLength (kindOf m) ≤ s.cfg.lenLimit.toNat) :
    ∃ t, ingestAll (frameWords s.cfg s.cfg.localAddr (msgEncode m)) s = .next t ∧ Delivered s.cfg m t := by
  rw [← msgEncode_length] at hlim
  obtain ⟨u, hu, hwords⟩ := ingestAll_frameWords (msgEncode_length_le m) hlim
  exact ⟨_, hwords.trans (storeDone_of_message hu), hu.delivered.finish .nothing _⟩

theorem checkWords_eq_dataWords (hon : c.integrity = true) (a : Byte) (p : List Byte) :
    ∃ lo hi, checkWords c a p = [wordEncodeData lo, wordEncodeData hi] :=
  ⟨_, _, if_pos hon⟩

/-- A configuration with INTEGRITY off sends the same words, but for the check words at the end. -/
theorem frameWords_eq_append_checkWords {c' : Cfg} (hoff : c'.integrity = false) (a : Byte) (p : List Byte) :
    frameWords c a p = frameWords c' a p ++ checkWords c a p := by
  rw [frameWords_eq_append c, frameWords_eq_append c', checkWords_of_integrity_off hoff, List.append_nil,
    List.append_assoc]

end Sys2Proof.Machine

open Sys2Proof Sys2Proof.Machine

/-- Settles O6: both rows feed the same byte. -/
theorem foreignAddressIsTakenAsData : Obligations.ForeignAddressIsTakenAsData := by
  intro s a ha
  rw [exec_foreignAddr_of_ne ha, exec_data]

/-- Settles O26: the word's byte is dropped, so what the trigger does in Completed is all that happens. -/
theorem levelTriggerStoresAgain : Obligations.LevelTriggerStoresAgain := by
  intro s w m hr hd hm hw
  obtain ⟨b, hb⟩ := exec_ingest_of_notMatching hw
  rw [hb]
  exact ⟨fun hlevel => feedByte_of_completed_level hr hlevel hd hm b,
    fun hedge => feedByte_of_completed_edge hr hedge b⟩

/-- Settles O45: the words before the check words deliver the message, and each of the two check words is dropped. -/
theorem checkBytesAreDroppedWhenOff : Obligations.CheckBytesAreDroppedWhenOff := by
  intro r s m ws hsent hon hoff hlim
  rw [exec_txMessage_words hsent, frameWords_eq_append_checkWords hoff]
  obtain ⟨lo, hi, hcheck⟩ := checkWords_eq_dataWords hon s.cfg.localAddr (msgEncode m)
  obtain ⟨t, hwords, ht⟩ := ingestAll_delivered hlim
  obtain ⟨u, -, hlow, hu, -⟩ := ht.exec_ingest_data lo
  obtain ⟨v, d, hhigh, hv, hlabel⟩ := hu.exec_ingest_data hi
  refine ⟨v, ?_, hv.mailbox, hv.frame.rxState, d, hlabel⟩
  rw [ingestAll_append, hwords, andThen_next, hcheck, ingestAll, hlow, andThen_next, ingestAll_singleton, hhigh]

end

section
/-! RESET (spec/70_reset_and_hazards.md R240), and what only RESET may change (R243). -/

namespace Sys2Proof.Machine

variable {s t u : State}

theorem exec_reset_of_wf {c : Cfg} (h : c.wf = true) (s : State) :
    exec (.reset c) s = .next ((s.restart c).finish .nothing .reset) :=
  execReset_of_none ((checkCfg_eq_none c).2 h) s

/-- What an operation other than RESET leaves as it was: the configuration and the host's input. -/
structure SameCfgAndInput (s t : State) : Prop where
  cfg     : t.cfg = s.cfg
  pending : t.pending = s.pending
  draws   : t.draws = s.draws

theorem SameCfgAndInput.finish (h : SameCfgAndInput s t) (o : Output) (l : Label) :
    SameCfgAndInput s (t.finish o l) := { h with }

theorem SameCfgAndInput.setMailbox (h : SameCfgAndInput s t) (m : Option Message) :
    SameCfgAndInput s (t.setMailbox m) := { h with }

theorem SameCfgAndInput.refl (s : State) : SameCfgAndInput s s := ⟨rfl, rfl, rfl⟩

theorem rxEffect_sameCfgAndInput {c : RxCase} {b : Byte} {l : RxLabel} (h : rxEffect c b s = .next (t, l)) :
    SameCfgAndInput s t := by
  obtain ⟨-, hcfg, -, -, hpending, hdraws⟩ := rxEffect_frame h
  exact ⟨hcfg, hpending, hdraws⟩

theorem SameCfgAndInput.after_completionTrigger {before : RxState} {d : DecLabel} (h : SameCfgAndInput s t)
    (htrig : completionTrigger before t = .next (u, d)) : SameCfgAndInput s u := by
  obtain ⟨m, rfl⟩ := completionTrigger_mailbox htrig
  exact h.setMailbox m

/-- Every form of a next state but RESET's keeps the configuration; every form keeps the input. -/
theorem effect_cfg_and_input {i : Instr} (he : Effect i s t) :
    SameCfgAndInput s t ∨ (i = .reset t.cfg ∧ t.pending = s.pending ∧ t.draws = s.draws) := by
  have hsame := SameCfgAndInput.refl s
  cases he with
  | pure o => exact .inl (hsame.finish ..)
  | rx _ heff => exact .inl ((rxEffect_sameCfgAndInput heff).finish ..)
  | word _ heff htrig => exact .inl (((rxEffect_sameCfgAndInput heff).after_completionTrigger htrig).finish ..)
  | start _ => exact .inl ⟨rfl, rfl, rfl⟩
  | trigger htrig => exact .inl ((hsame.after_completionTrigger htrig).finish ..)
  | decode _ hdec =>
    obtain ⟨m, rfl⟩ := decodeStore_mailbox hdec
    exact .inl ((hsame.setMailbox m).finish ..)
  | poll _ => exact .inl ((hsame.setMailbox none).finish ..)
  | reset hi _ => exact .inr ⟨hi, rfl, rfl⟩

theorem decode_configChange (x : Ctx) (c : Cfg) :
    decode x (.configChange c) = .bad .configChangeOutsideReset := rfl

end Sys2Proof.Machine

open Sys2Proof Sys2Proof.Machine

/-- Settles O46: a legal configuration passes RESET's check, and `restart` writes the fields R240 names. -/
theorem resetRestoresTheFields : Obligations.ResetRestoresTheFields := fun s _ hwf =>
  ⟨_, exec_reset_of_wf hwf s, rfl⟩

/-- Settles O59, by the form of the next state. -/
theorem onlyResetChangesTheConfiguration : Obligations.OnlyResetChangesTheConfiguration := by
  intro i s t c he
  have hbad := decode_configChange s.ctx c
  obtain ⟨hcfg, hpending, hdraws⟩ | ⟨hi, hpending, hdraws⟩ := effect_cfg_and_input (exec_effect he)
  · exact ⟨hpending, hdraws, .inl hcfg, hbad⟩
  · exact ⟨hpending, hdraws, .inr hi, hbad⟩

end
